-- ==== Sys2Proof/Word.lean ====
section
/-! DEFINITION. The word types of the CODEC block: bytes, byte sequences, 64-bit registers, 32-bit digest words
(spec/00_scope.md R9 to R11, spec/10_state.md R21). -/

namespace Sys2Proof

/-- A byte (R11). -/
abbrev Byte := BitVec 8

/-- A finite sequence of bytes, index 0 first (R11). -/
abbrev Bytes := List Byte

/-- The contents of an argument or result register (R21, R22). -/
abbrev Word := BitVec 64

/-- A u32 of the two digest algorithms (R172, R181). -/
abbrev W32 := BitVec 32

end Sys2Proof
end

