-- ==== Sys2Proof/Config.lean ====
section
/-! DEFINITION. The parameters the spec leaves OPEN (spec/00_scope.md R8). They are fixed when the block is built, and
no command and no host operation changes them (spec/10_state.md R30). A state carries them as plain data, so a
statement about every state is a statement about every value of the parameters. -/

namespace Sys2Proof

/-- The OPEN parameters of one block. `REG_BASE` is the platform's and `SHA256_FN`, `RMD160_FN` are decided (R8, D41);
`N_INST` is the length of the list in Sys2Proof/Machine/Instances.lean. -/
structure Config where
  /-- `BUF_CAP`: the capacity in bytes of each of BUF0, BUF1, OBUF. -/
  bufCap : Nat
  /-- `HEX_UPPER_OK`: whether HEX2BIN accepts the digits `A` to `F`. -/
  hexUpperOk : Bool
deriving DecidableEq, Repr

/-- The default values of R8, with which the spec's test vectors were worked. DESIGN CHOICE (log entry 1): the reset
state carries them. -/
def Config.specDefault : Config := { bufCap := 4096, hexUpperOk := false }

end Sys2Proof
end

