-- ==== Sys2Proof/Syntax.lean ====
section
/-! DEFINITION. The commands of the block (spec/30_encoding.md R92), the host port operations (spec/10_state.md R40 to
R46), the steps of the three agents (R20), and the assembler's command statement (R100). -/

namespace Sys2Proof

/-- The 28 commands, one constructor per row of the opcode table (R92). A command word holds no register number, no
immediate and no address (R90, R93), so no constructor has an argument. -/
inductive Instr where
  | wr16be | wr16le | wr32be | wr32le | wr64be | wr64le
  | rd16be | rd16le | rd32be | rd32le | rd64be | rd64le
  | revb | revdw | bitchk | bitset | hex2bin | bin2hex
  | sha256 | sha256d | sha256d2 | hash160
  | viEnc | viDec
  | b58Enc | b58Dec | b58cEnc | b58cDec
deriving DecidableEq, Repr

/-- The five units (R3). -/
inductive CodecUnit where
  | byteorder | bytearray | hash | varint | b58
deriving DecidableEq, Repr

/-- The unit a command belongs to (R3). -/
def Instr.unit : Instr → CodecUnit
  | .wr16be | .wr16le | .wr32be | .wr32le | .wr64be | .wr64le => .byteorder
  | .rd16be | .rd16le | .rd32be | .rd32le | .rd64be | .rd64le => .byteorder
  | .revb | .revdw | .bitchk | .bitset | .hex2bin | .bin2hex => .bytearray
  | .sha256 | .sha256d | .sha256d2 | .hash160 => .hash
  | .viEnc | .viDec => .varint
  | .b58Enc | .b58Dec | .b58cEnc | .b58cDec => .b58

/-- The ARG registers a command reads, by number, in the order of the table of R95. -/
def Instr.argRegs : Instr → List Nat
  | .wr16be | .wr16le | .wr32be | .wr32le | .wr64be | .wr64le => [0, 1]
  | .rd16be | .rd16le | .rd32be | .rd32le | .rd64be | .rd64le => [1]
  | .revdw => [0]
  | .bitchk | .bitset => [1]
  | .sha256 | .sha256d => [1, 2]
  | .sha256d2 => [1, 2, 3, 4]
  | .viEnc => [0]
  | .revb | .hex2bin | .bin2hex | .hash160 => []
  | .viDec | .b58Enc | .b58Dec | .b58cEnc | .b58cDec => []

/-- A host port operation (R40, R41, R42, R45, R46). -/
inductive HostOp where
  /-- `HostWriteArg(i, v)` -/
  | writeArg (i : Nat) (v : Word)
  /-- `HostLoadBuf(n, s)` -/
  | loadBuf (n : Nat) (s : Bytes)
  /-- `HostIssue(op)` -/
  | issue (op : BitVec 8)
  /-- `HostRead(r)` -/
  | read (r : Nat)
  /-- `HostClearSticky` -/
  | clearSticky
deriving DecidableEq, Repr

/-- One step of an agent (R20): the host's, the platform's reset, or the block's `complete`. -/
inductive Event where
  | host (op : HostOp)
  | reset
  | complete
deriving DecidableEq, Repr

/-- A command statement of the assembler (R100): a command with the values of its ARG operands, each beside the number
of its register. -/
structure Stmt where
  instr : Instr
  operands : List (Nat × Word)
deriving DecidableEq, Repr

end Sys2Proof
end

