-- ==== Sys2Proof/WellFormed.lean ====
section
/-! DEFINITION. What a well-formed term is. A command has no operand field, so every `Instr` is well-formed (R93); what
can be ill-formed is a parameter value (spec/00_scope.md R8), a host port operation (spec/10_state.md R40, R41) or an
assembler statement (spec/30_encoding.md R95, R100). -/

namespace Sys2Proof

/-- `64 ≤ BUF_CAP ≤ 2^32 − 1` (R8). -/
def Config.wf (c : Config) : Bool := decide (64 ≤ c.bufCap) && decide (c.bufCap ≤ 2 ^ 32 - 1)

/-- The argument ranges of the host port operations: `0 ≤ i ≤ 4` (R40) and `n` in {0, 1} (R41). -/
def HostOp.wf : HostOp → Bool
  | .writeArg i _ => decide (i ≤ 4)
  | .loadBuf n _ => decide (n ≤ 1)
  | .issue _ => true
  | .read _ => true
  | .clearSticky => true

/-- Only a host operation can be ill-formed. -/
def Event.wf : Event → Bool
  | .host op => op.wf
  | .reset => true
  | .complete => true

/-- A statement gives a value to exactly the ARG registers its command names, in the order of R95. -/
def Stmt.wf (st : Stmt) : Bool := decide (st.operands.map Prod.fst = st.instr.argRegs)

end Sys2Proof
end

