-- ==== Sys2Proof/Decode.lean ====
section
/-! DEFINITION. From command words to commands and back (spec/30_encoding.md R90 to R92, R96, R98). The decoder reads the
fields of format C8; the encoder is written from the opcode numbers of R92. -/

namespace Sys2Proof

/-- Why a word is no command (R98). -/
inductive DecodeReject where
  /-- There is no command word to read. -/
  | noCommandWord
  /-- `unit` is 0 or 6 to 15 (R90). -/
  | reservedUnit (unit : BitVec 4)
  /-- Unit 1 with width code 3 (R91). -/
  | reservedWidth (fn : BitVec 4)
  /-- `fn` is not assigned in this unit (R98). -/
  | reservedFunction (unit fn : BitVec 4)
deriving DecidableEq, Repr

/-- Bits 7:4 of a command word (R90). -/
def unitField (w : BitVec 8) : BitVec 4 := w.extractLsb' 4 4

/-- Bits 3:0 of a command word (R90). -/
def fnField (w : BitVec 8) : BitVec 4 := w.extractLsb' 0 4

/-- Unit 1: `fn[3]` read, `fn[2:1]` width code, `fn[0]` little-endian (R91). -/
def decodeByteorder (fn : BitVec 4) : Except DecodeReject Instr :=
  match (fn.extractLsb' 1 2).toNat, fn.getLsbD 3, fn.getLsbD 0 with
  | 0, false, false => .ok .wr16be
  | 0, false, true => .ok .wr16le
  | 1, false, false => .ok .wr32be
  | 1, false, true => .ok .wr32le
  | 2, false, false => .ok .wr64be
  | 2, false, true => .ok .wr64le
  | 0, true, false => .ok .rd16be
  | 0, true, true => .ok .rd16le
  | 1, true, false => .ok .rd32be
  | 1, true, true => .ok .rd32le
  | 2, true, false => .ok .rd64be
  | 2, true, true => .ok .rd64le
  | _, _, _ => .error (.reservedWidth fn)

/-- Units 2 to 5: `fn` is a plain number (R91, R92). -/
def decodePlain (unit fn : BitVec 4) : Except DecodeReject Instr :=
  match unit.toNat, fn.toNat with
  | 2, 0 => .ok .revb
  | 2, 1 => .ok .revdw
  | 2, 2 => .ok .bitchk
  | 2, 3 => .ok .bitset
  | 2, 4 => .ok .hex2bin
  | 2, 5 => .ok .bin2hex
  | 3, 0 => .ok .sha256
  | 3, 1 => .ok .sha256d
  | 3, 2 => .ok .sha256d2
  | 3, 3 => .ok .hash160
  | 4, 0 => .ok .viEnc
  | 4, 1 => .ok .viDec
  | 5, 0 => .ok .b58Enc
  | 5, 1 => .ok .b58Dec
  | 5, 2 => .ok .b58cEnc
  | 5, 3 => .ok .b58cDec
  | _, _ => .error (.reservedFunction unit fn)

/-- The command of a command word, or why it is none (R90 to R92, R98). -/
def decodeWord (w : BitVec 8) : Except DecodeReject Instr :=
  match (unitField w).toNat with
  | 1 => decodeByteorder (fnField w)
  | 2 | 3 | 4 | 5 => decodePlain (unitField w) (fnField w)
  | _ => .error (.reservedUnit (unitField w))

/-- The command at the head of a byte sequence, with the bytes after it: every command is one byte long (R90, R96). -/
def decodeBytes : Bytes → Except DecodeReject (Instr × Bytes)
  | [] => .error .noCommandWord
  | w :: rest =>
    match decodeWord w with
    | .ok i => .ok (i, rest)
    | .error e => .error e

/-- The host's question: the command the decoder reads from a command of `nbits` bits whose bits are `w`. -/
def decodeTableWord (nbits w : Nat) : Option Instr :=
  match decodeBytes [BitVec.ofNat 8 (w % 2 ^ nbits)] with
  | .ok (i, _) => some i
  | .error _ => none

/-- The command word of a command (R92). -/
def encode : Instr → BitVec 8
  | .wr16be => 0x10#8
  | .wr16le => 0x11#8
  | .wr32be => 0x12#8
  | .wr32le => 0x13#8
  | .wr64be => 0x14#8
  | .wr64le => 0x15#8
  | .rd16be => 0x18#8
  | .rd16le => 0x19#8
  | .rd32be => 0x1A#8
  | .rd32le => 0x1B#8
  | .rd64be => 0x1C#8
  | .rd64le => 0x1D#8
  | .revb => 0x20#8
  | .revdw => 0x21#8
  | .bitchk => 0x22#8
  | .bitset => 0x23#8
  | .hex2bin => 0x24#8
  | .bin2hex => 0x25#8
  | .sha256 => 0x30#8
  | .sha256d => 0x31#8
  | .sha256d2 => 0x32#8
  | .hash160 => 0x33#8
  | .viEnc => 0x40#8
  | .viDec => 0x41#8
  | .b58Enc => 0x50#8
  | .b58Dec => 0x51#8
  | .b58cEnc => 0x52#8
  | .b58cDec => 0x53#8

/-- What writing a statement stands for (R100): the HostWriteArg operations of its operands, then the HostIssue of its
command word, then the block's `complete`, for which the host waits (R101). -/
def Stmt.events (st : Stmt) : List Event :=
  st.operands.map (fun o => .host (.writeArg o.1 o.2)) ++ [.host (.issue (encode st.instr)), .complete]

end Sys2Proof
end

