-- ==== Sys2Proof/Machine/State.lean ====
section
/-! DEFINITION. The state of one block instance (spec/10_state.md R20 to R31), the reasons a step could stop, and the
state after reset (R48). -/

namespace Sys2Proof.Machine

/-- STATUS (R25), field by field. The reserved bits read as 0 and have no storage (log entry 6); the 32-bit word the
host reads is `Status.word`. -/
@[ext]
structure Status where
  /-- Bit 0: a command is in flight. -/
  busy : Bool
  /-- Bit 1: the last issued command has completed. -/
  done : Bool
  /-- Bit 2: sticky error. -/
  estk : Bool
  /-- Bits 10:8: error kind of the last completed command. -/
  kind : BitVec 3
  /-- Bits 23:16: detail code of the last completed command. -/
  detail : BitVec 8
deriving DecidableEq, Repr

/-- The three data address spaces (R23; spec/20_memory.md R60). A buffer is the sequence of exactly its length: the byte
at index `i` is the `i`-th of the list, no index at or above the length exists, and LEN0, LEN1, OLEN are the lengths of
the lists (log entry 5). -/
@[ext]
structure Memory where
  buf0 : Bytes
  buf1 : Bytes
  obuf : Bytes
deriving DecidableEq, Repr

/-- What a HostRead returns (R45): a register, zero-extended to 64 bits (log entry 4), or the bytes of a buffer. -/
inductive HostValue where
  | word (v : Word)
  | bytes (b : Bytes)
deriving DecidableEq, Repr

/-- The state of one instance, with the block's fixed parameters and the model's record of the agents around it. -/
@[ext]
structure State where
  /-- The block's parameters (R30): no step changes them (log entry 1). -/
  cfg : Config
  /-- CMD (R24). -/
  cmd : BitVec 8
  /-- STATUS (R25). -/
  status : Status
  /-- ARG0 (R21). -/
  arg0 : Word
  /-- ARG1 (R21). -/
  arg1 : Word
  /-- ARG2 (R21). -/
  arg2 : Word
  /-- ARG3 (R21). -/
  arg3 : Word
  /-- ARG4 (R21). -/
  arg4 : Word
  /-- RES0 (R22). -/
  res0 : Word
  /-- RES1 (R22). -/
  res1 : Word
  /-- BUF0, BUF1, OBUF with their lengths (R23). -/
  mem : Memory
  /-- The model's own (log entry 2): the steps of the agents still to come, in their one total order
  (spec/20_memory.md R72). -/
  schedule : List Event
  /-- The model's own (log entry 4): what HostRead has returned, newest first. -/
  hostReads : List HostValue
deriving DecidableEq, Repr

/-- Why the machine stops with a fault. It has no constructor: the spec names no condition that stops the block, since
every error is a completion that leaves it idle (spec/60_exceptions.md R290, R292). Nobody raises one; safe, because
every behaviour the spec gives is a next state. -/
inductive Fault where
deriving DecidableEq, Repr

/-- Why the model gives no meaning. -/
inductive Refusal where
  /-- A command without a meaning yet. Raised by no arm of `exec`: all 28 commands have theirs. Safe. -/
  | notModelled (mnemonic : String)
deriving DecidableEq, Repr

/-- STATUS after reset: idle, not done, no error (R48). -/
def Status.reset : Status := { busy := false, done := false, estk := false, kind := 0, detail := 0 }

/-- The machine right after reset (R48; spec/70_reset_and_hazards.md R320): every register 0, the three buffers empty.
The parameters are the defaults of R8 (log entry 1), nothing is scheduled (log entry 2), the host has read nothing. -/
def State.reset : State :=
  { cfg := Config.specDefault
    cmd := 0
    status := Status.reset
    arg0 := 0, arg1 := 0, arg2 := 0, arg3 := 0, arg4 := 0
    res0 := 0, res1 := 0
    mem := { buf0 := [], buf1 := [], obuf := [] }
    schedule := []
    hostReads := [] }

end Sys2Proof.Machine
end

