-- ==== Sys2Proof/Machine/Flags.lean ====
section
/-! DEFINITION. Everything that computes STATUS. The block has no arithmetic flag (spec/10_state.md R27); STATUS changes
at an accepted issue (R42), at a completion (R44; spec/60_exceptions.md R290) and when the sticky bit is cleared (R46). -/

namespace Sys2Proof.Machine

/-- The error kinds (R281). -/
inductive ErrorKind where
  | none
  | preconditionViolation
  | decodeFormatError
  /-- Assigned a code and produced by no command (R283). -/
  | unsupportedMagnitude
deriving DecidableEq, Repr

/-- The code of a kind in STATUS.KIND (R25, R281). -/
def ErrorKind.code : ErrorKind → BitVec 3
  | .none => 0
  | .preconditionViolation => 1
  | .decodeFormatError => 2
  | .unsupportedMagnitude => 3

/-- The causes of an error (R284). -/
inductive ErrorDetail where
  | outOfBounds | badLengthMod4 | badTrim | capacity | illegalCommand
  | hexOddLength | hexBadDigit | varintTruncated | b58BadChar | b58cTooShort | b58cBadChecksum
deriving DecidableEq, Repr

/-- The detail code of a cause (R284). -/
def ErrorDetail.code : ErrorDetail → BitVec 8
  | .outOfBounds => 0x01#8
  | .badLengthMod4 => 0x02#8
  | .badTrim => 0x03#8
  | .capacity => 0x04#8
  | .illegalCommand => 0x05#8
  | .hexOddLength => 0x10#8
  | .hexBadDigit => 0x11#8
  | .varintTruncated => 0x12#8
  | .b58BadChar => 0x13#8
  | .b58cTooShort => 0x14#8
  | .b58cBadChecksum => 0x15#8

/-- The kind of a cause (R284). -/
def ErrorDetail.kind : ErrorDetail → ErrorKind
  | .outOfBounds | .badLengthMod4 | .badTrim | .capacity | .illegalCommand => .preconditionViolation
  | .hexOddLength | .hexBadDigit | .varintTruncated => .decodeFormatError
  | .b58BadChar | .b58cTooShort | .b58cBadChecksum => .decodeFormatError

/-- STATUS as the 32-bit word the host reads: DETAIL in 23:16, KIND in 10:8, ESTK, DONE, BUSY in 2, 1, 0, the rest 0
(R25). -/
def Status.word (t : Status) : BitVec 32 :=
  0#8 ++ t.detail ++ 0#5 ++ t.kind ++ 0#5 ++ BitVec.ofBool t.estk ++ BitVec.ofBool t.done ++ BitVec.ofBool t.busy

/-- STATUS after an accepted issue (R42): ESTK is kept. -/
def Status.issued (t : Status) : Status :=
  { busy := true, done := false, estk := t.estk, kind := ErrorKind.none.code, detail := 0 }

/-- STATUS after a successful completion (R44): ESTK is kept. -/
def Status.succeeded (t : Status) : Status :=
  { busy := false, done := true, estk := t.estk, kind := ErrorKind.none.code, detail := 0 }

/-- STATUS after an error completion (R290): nothing of the old STATUS survives. -/
def Status.failed (d : ErrorDetail) : Status :=
  { busy := false, done := true, estk := true, kind := d.kind.code, detail := d.code }

/-- STATUS after HostClearSticky (R46). -/
def Status.stickyCleared (t : Status) : Status := { t with estk := false }

end Sys2Proof.Machine
end

