-- ==== Sys2Proof/Machine/Ops.lean ====
section
/-! DEFINITION. The named operations the meanings are written with: conversions between integers and bytes
(spec/00_scope.md R12), reading and writing buffers and registers (R13), and the two ways a command completes
(spec/10_state.md R44, spec/60_exceptions.md R290). -/

namespace Sys2Proof.Machine

/-! ### Integers and byte sequences (R12) -/

/-- `v & 0xFF` as a byte. -/
def byteOf (v : Nat) : Byte := BitVec.ofNat 8 v

/-- `be_n(v)`: the byte at index `i` is `(v >> 8(n−1−i)) & 0xFF`. -/
def beBytes (n v : Nat) : Bytes := (List.range n).map fun i => byteOf (v >>> (8 * (n - 1 - i)))

/-- `le_n(v)`: the byte at index `i` is `(v >> 8i) & 0xFF`. -/
def leBytes (n v : Nat) : Bytes := (List.range n).map fun i => byteOf (v >>> (8 * i))

/-- `from_be(b)`: the most significant byte first. -/
def fromBE (b : Bytes) : Nat := b.foldl (fun acc x => acc * 256 + x.toNat) 0

/-- `from_le(b)`: the least significant byte first. -/
def fromLE : Bytes → Nat
  | [] => 0
  | x :: rest => x.toNat + 256 * fromLE rest

/-- The digits of `n` in base `base`, least significant first, with no digit for 0: repeated `mod` and `div`
(spec/44_base58.md R231, R232). `fuel` bounds the number of digits; every caller gives at least as many as there are
(log entry 14). -/
def digitsLE (base : Nat) : (fuel : Nat) → (n : Nat) → List Nat
  | 0, _ => []
  | fuel + 1, n => if n = 0 then [] else n % base :: digitsLE base fuel (n / base)

/-- Apply `f` to every element; `none` as soon as one has no value. -/
def mapAll {α β : Type} (f : α → Option β) : List α → Option (List β)
  | [] => some []
  | x :: rest =>
    match f x, mapAll f rest with
    | some y, some ys => some (y :: ys)
    | _, _ => none

/-! ### Buffers (R13) -/

/-- The bytes of a buffer from `off` on, `n` of them: `MemRead`, used only where `off + n` is at most the length
(spec/20_memory.md R63). -/
def memRead (b : Bytes) (off n : Nat) : Bytes := (b.drop off).take n

/-- `MemWrite`: the bytes of `b` from `off` on are replaced by those of `src`, used only where they all exist (R63). -/
def memWrite (b : Bytes) (off : Nat) (src : Bytes) : Bytes := b.take off ++ src ++ b.drop (off + src.length)

/-- `b[i]`, used only where `i` is below the length (log entry 13). -/
def byteAt (b : Bytes) (i : Nat) : Byte := b.getD i 0

/-- The bytes of the three buffers fit their capacity: `0 ≤ length ≤ BUF_CAP` (spec/10_state.md R23). -/
def Memory.wf (c : Config) (m : Memory) : Bool :=
  decide (m.buf0.length ≤ c.bufCap) && decide (m.buf1.length ≤ c.bufCap) && decide (m.obuf.length ≤ c.bufCap)

/-- BUF0 (R23). -/
abbrev State.buf0 (s : State) : Bytes := s.mem.buf0

/-- BUF1 (R23). -/
abbrev State.buf1 (s : State) : Bytes := s.mem.buf1

/-- OBUF (R23). -/
abbrev State.obuf (s : State) : Bytes := s.mem.obuf

/-- LEN0 as the integer the rules compute with (R23, R9). -/
abbrev State.len0 (s : State) : Nat := s.mem.buf0.length

/-- LEN1 as an integer (R23). -/
abbrev State.len1 (s : State) : Nat := s.mem.buf1.length

/-- OLEN as an integer (R23). -/
abbrev State.olen (s : State) : Nat := s.mem.obuf.length

/-- `BUF0 <- b`. -/
def State.setBuf0 (s : State) (b : Bytes) : State := { s with mem := { s.mem with buf0 := b } }

/-- `BUF1 <- b`. -/
def State.setBuf1 (s : State) (b : Bytes) : State := { s with mem := { s.mem with buf1 := b } }

/-- `OBUF <- b`, which also sets OLEN (R13). -/
def State.setObuf (s : State) (b : Bytes) : State := { s with mem := { s.mem with obuf := b } }

/-! ### Registers -/

/-- `RES[0] <- v` (R13, R22). -/
def State.setRes0 (s : State) (v : Word) : State := { s with res0 := v }

/-- `RES[1] <- v` (R13, R22). -/
def State.setRes1 (s : State) (v : Word) : State := { s with res1 := v }

/-- STATUS as a whole. -/
def State.setStatus (s : State) (t : Status) : State := { s with status := t }

/-- CMD (R24). -/
def State.setCmd (s : State) (op : BitVec 8) : State := { s with cmd := op }

/-- `ARG[i] <- v`; there is no argument register past ARG4 (R21, R40), and then nothing is written (log entry 7). -/
def State.setArg (s : State) (i : Nat) (v : Word) : State :=
  match i with
  | 0 => { s with arg0 := v }
  | 1 => { s with arg1 := v }
  | 2 => { s with arg2 := v }
  | 3 => { s with arg3 := v }
  | 4 => { s with arg4 := v }
  | _ => s

/-- `ARG[i]`; 0 where no such register exists (R31). -/
def State.arg (s : State) (i : Nat) : Word :=
  match i with
  | 0 => s.arg0
  | 1 => s.arg1
  | 2 => s.arg2
  | 3 => s.arg3
  | 4 => s.arg4
  | _ => 0

/-- The steps still to come. -/
def State.setSchedule (s : State) (es : List Event) : State := { s with schedule := es }

/-! ### Completion -/

/-- The end of a command's rule without a `raise` (R44): the writes are already in `s`, and STATUS says so. -/
def succeed (s : State) : Host.Outcome State Fault Refusal := .next (s.setStatus s.status.succeeded)

/-- TAKING AN ERROR, the one operation for every `raise` (R13, R290): the state before the command with a new STATUS,
nothing else. The kind is that of the cause (R284). Nothing is saved, so there is no return from it (R292). -/
def raise (d : ErrorDetail) (s : State) : Host.Outcome State Fault Refusal := .next (s.setStatus (Status.failed d))

/-- Complete with a new OBUF: `OBUF <- out` and success. -/
def succeedWithObuf (s : State) (out : Bytes) : Host.Outcome State Fault Refusal := succeed (s.setObuf out)

/-- Complete with a new OBUF where the result may be too long for it: CAPACITY first (spec/20_memory.md R64). -/
def succeedWithinCapacity (s : State) (out : Bytes) : Host.Outcome State Fault Refusal :=
  if out.length > s.cfg.bufCap then raise .capacity s else succeedWithObuf s out

end Sys2Proof.Machine
end

