-- ==== Sys2Proof/Machine/Operands.lean ====
section
/-! DEFINITION. The forms an operand takes (spec/30_encoding.md R93): an unsigned integer, a signed one, the low bits of a
register, a range of a buffer. Which register holds which operand is fixed per command (R95), so each meaning names its
own. -/

namespace Sys2Proof.Machine

/-- An operand register read as u64, the whole register (spec/10_state.md R21). -/
abbrev u64 (v : Word) : Nat := v.toNat

/-- `sext_64`: ARG0 of REVDW read as s64 (R12, R93). -/
abbrev s64 (v : Word) : Int := v.toInt

/-- `ARG mod 2^(8w)`: the value operand of the WR commands (spec/40_byteorder.md R120). -/
def lowBytes (w : Nat) (v : Word) : Nat := v.toNat % 2 ^ (8 * w)

/-- The bounds check of every access: `off + n ≤ LEN`, the sum unbounded (spec/20_memory.md R63). -/
def inBounds (b : Bytes) (off n : Nat) : Bool := decide (off + n ≤ b.length)

end Sys2Proof.Machine
end

