-- ==== Sys2Proof/Machine/Sha256.lean ====
section
/-! DEFINITION. SHA-256 as spec/42_hash.md R172 to R176 gives it, a pure function of the message (spec/10_state.md R28).
The spec marks these rules as its own, from general knowledge (log entry 9). -/

namespace Sys2Proof.Machine

/-- `Ch` (R172). -/
def shaCh (x y z : W32) : W32 := (x &&& y) ^^^ (~~~x &&& z)

/-- `Maj` (R172). -/
def shaMaj (x y z : W32) : W32 := (x &&& y) ^^^ (x &&& z) ^^^ (y &&& z)

/-- `S0`, the upper-case one (R172). -/
def shaBigS0 (x : W32) : W32 := x.rotateRight 2 ^^^ x.rotateRight 13 ^^^ x.rotateRight 22

/-- `S1`, the upper-case one (R172). -/
def shaBigS1 (x : W32) : W32 := x.rotateRight 6 ^^^ x.rotateRight 11 ^^^ x.rotateRight 25

/-- `s0`, the lower-case one (R172). -/
def shaSmallS0 (x : W32) : W32 := x.rotateRight 7 ^^^ x.rotateRight 18 ^^^ (x >>> 3)

/-- `s1`, the lower-case one (R172). -/
def shaSmallS1 (x : W32) : W32 := x.rotateRight 17 ^^^ x.rotateRight 19 ^^^ (x >>> 10)

/-- The round constants `K[0..63]`, in the rows of R173. -/
def shaK : List W32 :=
  [0x428a2f98, 0x71374491, 0xb5c0fbcf, 0xe9b5dba5, 0x3956c25b, 0x59f111f1, 0x923f82a4, 0xab1c5ed5] ++
  [0xd807aa98, 0x12835b01, 0x243185be, 0x550c7dc3, 0x72be5d74, 0x80deb1fe, 0x9bdc06a7, 0xc19bf174] ++
  [0xe49b69c1, 0xefbe4786, 0x0fc19dc6, 0x240ca1cc, 0x2de92c6f, 0x4a7484aa, 0x5cb0a9dc, 0x76f988da] ++
  [0x983e5152, 0xa831c66d, 0xb00327c8, 0xbf597fc7, 0xc6e00bf3, 0xd5a79147, 0x06ca6351, 0x14292967] ++
  [0x27b70a85, 0x2e1b2138, 0x4d2c6dfc, 0x53380d13, 0x650a7354, 0x766a0abb, 0x81c2c92e, 0x92722c85] ++
  [0xa2bfe8a1, 0xa81a664b, 0xc24b8b70, 0xc76c51a3, 0xd192e819, 0xd6990624, 0xf40e3585, 0x106aa070] ++
  [0x19a4c116, 0x1e376c08, 0x2748774c, 0x34b0bcb5, 0x391c0cb3, 0x4ed8aa4a, 0x5b9cca4f, 0x682e6ff3] ++
  [0x748f82ee, 0x78a5636f, 0x84c87814, 0x8cc70208, 0x90befffa, 0xa4506ceb, 0xbef9a3f7, 0xc67178f2]

/-- Eight u32: the chaining value `H[0..7]` and the working variables `a` to `h` (R175). -/
structure Sha256Regs where
  (a b c d e f g h : W32)
deriving DecidableEq, Repr

/-- The initial chaining value `H0[0..7]` (R172). -/
def shaInit : Sha256Regs :=
  { a := 0x6a09e667, b := 0xbb67ae85, c := 0x3c6ef372, d := 0xa54ff53a,
    e := 0x510e527f, f := 0x9b05688c, g := 0x1f83d9ab, h := 0x5be0cd19 }

/-- `(55 − L) mod 64`: the number of zero bytes of the padding of a message of `L` bytes (R174, R184). -/
def padZeros (len : Nat) : Nat := (55 + 64 - len % 64) % 64

/-- `pad256(m)` (R174). -/
def pad256 (m : Bytes) : Bytes :=
  m ++ [0x80#8] ++ List.replicate (padZeros m.length) 0#8 ++ beBytes 8 (8 * m.length)

/-- The first `n` pieces of `size` bytes each. -/
def pieces (size : Nat) : (n : Nat) → Bytes → List Bytes
  | 0, _ => []
  | n + 1, b => b.take size :: pieces size n (b.drop size)

/-- The 64-byte blocks of a padded message (R174, R176). -/
def blocks64 (p : Bytes) : List Bytes := pieces 64 (p.length / 64) p

/-- `W[t]` from the words before it, newest first: `s1(W[t−2]) + W[t−7] + s0(W[t−15]) + W[t−16]` (R175). -/
def shaNextW (w : List W32) : W32 :=
  shaSmallS1 (w.getD 1 0) + w.getD 6 0 + shaSmallS0 (w.getD 14 0) + w.getD 15 0

/-- `n` more words of the message schedule, the list newest first (R175). -/
def shaExtend : (n : Nat) → List W32 → List W32
  | 0, w => w
  | n + 1, w => shaExtend n (shaNextW w :: w)

/-- `W[0..15]`: the block's sixteen big-endian words (R175). -/
def shaBlockWords (b : Bytes) : List W32 := (pieces 4 16 b).map fun q => BitVec.ofNat 32 (fromBE q)

/-- `W[0..63]` (R175). -/
def shaSchedule (b : Bytes) : List W32 := (shaExtend 48 (shaBlockWords b).reverse).reverse

/-- One round with round constant `k` and message word `w` (R175). -/
def shaRound (v : Sha256Regs) (k w : W32) : Sha256Regs :=
  let t1 := v.h + shaBigS1 v.e + shaCh v.e v.f v.g + k + w
  let t2 := shaBigS0 v.a + shaMaj v.a v.b v.c
  { a := t1 + t2, b := v.a, c := v.b, d := v.c, e := v.d + t1, f := v.e, g := v.f, h := v.g }

/-- The 64 rounds of a block (R175). -/
def shaRounds (v : Sha256Regs) (b : Bytes) : Sha256Regs :=
  (shaK.zip (shaSchedule b)).foldl (fun r kw => shaRound r kw.1 kw.2) v

/-- The chaining value after a block: the old one plus the working variables, word by word (R175). -/
def shaBlock (h : Sha256Regs) (b : Bytes) : Sha256Regs :=
  let v := shaRounds h b
  { a := h.a + v.a, b := h.b + v.b, c := h.c + v.c, d := h.d + v.d,
    e := h.e + v.e, f := h.f + v.f, g := h.g + v.g, h := h.h + v.h }

/-- The 32 digest bytes of a chaining value, each word big-endian, `H[0]` first (R176, R177). -/
def shaOutput (h : Sha256Regs) : Bytes :=
  [h.a, h.b, h.c, h.d, h.e, h.f, h.g, h.h].flatMap fun x => beBytes 4 x.toNat

/-- `SHA256(m)` (R176). -/
def sha256Digest (m : Bytes) : Bytes := shaOutput ((blocks64 (pad256 m)).foldl shaBlock shaInit)

/-- `DSHA(m) = SHA256(SHA256(m))` (R170). -/
def doubleSha256 (m : Bytes) : Bytes := sha256Digest (sha256Digest m)

end Sys2Proof.Machine
end

