-- ==== Sys2Proof/Machine/Base58.lean ====
section
/-! DEFINITION. The B58 unit (spec/44_base58.md): Base58 and Base58Check. -/

namespace Sys2Proof.Machine

/-- The `n` consecutive character codes from `c` on. -/
def charsFrom (c n : Nat) : Bytes := (List.range n).map fun i => byteOf (c + i)

/-- `ALPHA`: `1`–`9`, `A`–`H`, `J`–`N`, `P`–`Z`, `a`–`k`, `m`–`z` (R230). -/
def alphabet58 : Bytes :=
  charsFrom 0x31 9 ++ charsFrom 0x41 8 ++ charsFrom 0x4A 5 ++ charsFrom 0x50 11 ++ charsFrom 0x61 11 ++ charsFrom 0x6D 14

/-- `ALPHA[k]` (R230). -/
def alpha58 (k : Nat) : Byte := byteAt alphabet58 k

/-- `b58val(c)` (R230). -/
def b58Val (c : Byte) : Option Nat := alphabet58.findIdx? (· == c)

/-- How many elements at the head of a sequence equal `x`. -/
def leadingCount (x : Byte) (b : Bytes) : Nat := (b.takeWhile (· == x)).length

/-- The digits of `from_be(b)` in base 58, least significant first (R231, R232). A byte is worth at most two digits. -/
def digits58 (b : Bytes) : List Nat := digitsLE 58 (2 * b.length) (fromBE b)

/-- The function of R232: one `1` per leading zero byte, then the digits, most significant first. -/
def base58Encode (b : Bytes) : Bytes :=
  List.replicate (leadingCount 0x00#8 b) 0x31#8 ++ ((digits58 b).map alpha58).reverse

/-- `n = n × 58 + digit` over the digits, the most significant first (R233). -/
def fromDigits58 (digits : List Nat) : Nat := digits.foldl (fun n d => n * 58 + d) 0

/-- The shortest big-endian byte sequence of value `n`, `[]` for 0 (R233); it has at most `fuel` bytes. -/
def shortestBE (fuel n : Nat) : Bytes := ((digitsLE 256 fuel n).map byteOf).reverse

/-- The function of R233; `none` where some character is not in the alphabet. A digit is worth less than a byte. -/
def base58Decode (text : Bytes) : Option Bytes :=
  match mapAll b58Val text with
  | none => none
  | some digits =>
    some (List.replicate (leadingCount 0x31#8 text) 0x00#8 ++ shortestBE text.length (fromDigits58 digits))

/-- The first four bytes of the double digest (R234). -/
def checksum58 (payload : Bytes) : Bytes := (doubleSha256 payload).take 4

/-- B58_ENC (R232). -/
def execB58Enc (s : State) : Host.Outcome State Fault Refusal := succeedWithinCapacity s (base58Encode s.buf0)

/-- B58_DEC (R233). -/
def execB58Dec (s : State) : Host.Outcome State Fault Refusal :=
  match base58Decode s.buf0 with
  | none => raise .b58BadChar s
  | some out => succeedWithObuf s out

/-- B58C_ENC (R234). -/
def execB58cEnc (s : State) : Host.Outcome State Fault Refusal :=
  succeedWithinCapacity s (base58Encode (s.buf0 ++ checksum58 s.buf0))

/-- B58C_DEC (R235): the alphabet, the length and the checksum are checked in that order (spec/60_exceptions.md R288). -/
def execB58cDec (s : State) : Host.Outcome State Fault Refusal :=
  match base58Decode s.buf0 with
  | none => raise .b58BadChar s
  | some d =>
    if d.length < 4 then raise .b58cTooShort s
    else if checksum58 (d.take (d.length - 4)) ≠ d.drop (d.length - 4) then raise .b58cBadChecksum s
    else succeedWithObuf s (d.take (d.length - 4))

end Sys2Proof.Machine
end

