-- ==== Sys2Proof/Machine/ByteArray.lean ====
section
/-! DEFINITION. The BYTEARRAY unit (spec/41_bytearray.md): reversal, dword swap, bit test and set, hex text. -/

namespace Sys2Proof.Machine

/-- REVB (R156). -/
def execRevb (s : State) : Host.Outcome State Fault Refusal := succeedWithObuf s s.buf0.reverse

/-- The output length of REVDW: `min(n, t)` when the trim `t` is not negative, else `n` (R157). -/
def trimmedLength (n : Nat) (t : Int) : Nat := if 0 ≤ t then min n t.toNat else n

/-- The first `m` bytes of `b` with each 4-byte group reversed: `out[i] = b[4 × (i div 4) + 3 − (i mod 4)]` (R157). -/
def swapDwords (b : Bytes) (m : Nat) : Bytes := (List.range m).map fun i => byteAt b (4 * (i / 4) + 3 - i % 4)

/-- REVDW (R157): the length is checked before the trim (spec/60_exceptions.md R288). -/
def execRevdw (s : State) : Host.Outcome State Fault Refusal :=
  if s.len0 % 4 ≠ 0 then raise .badLengthMod4 s
  else if 0 ≤ s64 s.arg0 ∧ s64 s.arg0 % 4 ≠ 0 then raise .badTrim s
  else succeedWithObuf s (swapDwords s.buf0 (trimmedLength s.len0 (s64 s.arg0)))

/-- Bit `i` of a packed bitfield: byte `i >> 3`, bit `i & 7`, bit 0 least significant (R159). -/
def bitOf (b : Bytes) (i : Nat) : Nat := ((byteAt b (i >>> 3)).toNat >>> (i &&& 7)) &&& 1

/-- The byte that holds bit `i`, with that bit set (R160). -/
def byteWithBit (b : Bytes) (i : Nat) : Byte := byteAt b (i >>> 3) ||| byteOf (1 <<< (i &&& 7))

/-- BITCHK (R159). -/
def execBitchk (s : State) : Host.Outcome State Fault Refusal :=
  if u64 s.arg1 >>> 3 ≥ s.len0 then raise .outOfBounds s
  else succeed (s.setRes0 (BitVec.ofNat 64 (bitOf s.buf0 (u64 s.arg1))))

/-- BITSET (R160). -/
def execBitset (s : State) : Host.Outcome State Fault Refusal :=
  if u64 s.arg1 >>> 3 ≥ s.len0 then raise .outOfBounds s
  else succeed (s.setBuf0 (memWrite s.buf0 (u64 s.arg1 >>> 3) [byteWithBit s.buf0 (u64 s.arg1)]))

/-- `hexval(c)`: the value of an ASCII hex digit, upper case only where the parameter allows it (R161). -/
def hexVal (upperOk : Bool) (c : Byte) : Option Nat :=
  if 0x30 ≤ c.toNat ∧ c.toNat ≤ 0x39 then some (c.toNat - 0x30)
  else if 0x61 ≤ c.toNat ∧ c.toNat ≤ 0x66 then some (c.toNat - 0x61 + 10)
  else if upperOk = true ∧ 0x41 ≤ c.toNat ∧ c.toNat ≤ 0x46 then some (c.toNat - 0x41 + 10)
  else none

/-- `hexchar(d)`: the lower-case digit of value `d` (R162). -/
def hexChar (d : Nat) : Byte := if d ≤ 9 then byteOf (0x30 + d) else byteOf (0x61 + d - 10)

/-- Pairs of digit values into bytes, the first of a pair the high four bits (R161). -/
def joinNibbles : List Nat → Bytes
  | hi :: lo :: rest => byteOf (16 * hi + lo) :: joinNibbles rest
  | _ => []

/-- The two characters of each byte, the high four bits first (R162). -/
def hexText (b : Bytes) : Bytes := b.flatMap fun x => [hexChar (x.toNat >>> 4), hexChar (x.toNat &&& 15)]

/-- HEX2BIN (R161): the length is checked before the digits (spec/60_exceptions.md R288). -/
def execHex2bin (s : State) : Host.Outcome State Fault Refusal :=
  if s.len0 % 2 ≠ 0 then raise .hexOddLength s
  else
    match mapAll (hexVal s.cfg.hexUpperOk) s.buf0 with
    | none => raise .hexBadDigit s
    | some digits => succeedWithObuf s (joinNibbles digits)

/-- BIN2HEX (R162): the capacity is checked on the length `2 × LEN0`. -/
def execBin2hex (s : State) : Host.Outcome State Fault Refusal :=
  if 2 * s.len0 > s.cfg.bufCap then raise .capacity s
  else succeedWithObuf s (hexText s.buf0)

end Sys2Proof.Machine
end

