-- ==== Sys2Proof/Machine/ByteOrder.lean ====
section
/-! DEFINITION. The BYTEORDER unit (spec/40_byteorder.md): the six WR commands store an integer into BUF0, the six RD
commands load one from it. -/

namespace Sys2Proof.Machine

/-- The common part of the WR commands (R120): width `w`, byte order `enc`. -/
def writeInteger (w : Nat) (enc : Nat → Nat → Bytes) (s : State) : Host.Outcome State Fault Refusal :=
  if inBounds s.buf0 (u64 s.arg1) w then
    succeed (s.setBuf0 (memWrite s.buf0 (u64 s.arg1) (enc w (lowBytes w s.arg0))))
  else
    raise .outOfBounds s

/-- The common part of the RD commands (R133): width `w`, byte order `dec`; RES0 is zero-extended. -/
def readInteger (w : Nat) (dec : Bytes → Nat) (s : State) : Host.Outcome State Fault Refusal :=
  if inBounds s.buf0 (u64 s.arg1) w then
    succeed (s.setRes0 (BitVec.ofNat 64 (dec (memRead s.buf0 (u64 s.arg1) w))))
  else
    raise .outOfBounds s

/-- WR16BE (R121). -/
def execWr16be (s : State) : Host.Outcome State Fault Refusal := writeInteger 2 beBytes s

/-- WR16LE (R122). -/
def execWr16le (s : State) : Host.Outcome State Fault Refusal := writeInteger 2 leBytes s

/-- WR32BE (R123). -/
def execWr32be (s : State) : Host.Outcome State Fault Refusal := writeInteger 4 beBytes s

/-- WR32LE (R124). -/
def execWr32le (s : State) : Host.Outcome State Fault Refusal := writeInteger 4 leBytes s

/-- WR64BE (R125). -/
def execWr64be (s : State) : Host.Outcome State Fault Refusal := writeInteger 8 beBytes s

/-- WR64LE (R126). -/
def execWr64le (s : State) : Host.Outcome State Fault Refusal := writeInteger 8 leBytes s

/-- RD16BE (R127). -/
def execRd16be (s : State) : Host.Outcome State Fault Refusal := readInteger 2 fromBE s

/-- RD16LE (R128). -/
def execRd16le (s : State) : Host.Outcome State Fault Refusal := readInteger 2 fromLE s

/-- RD32BE (R129). -/
def execRd32be (s : State) : Host.Outcome State Fault Refusal := readInteger 4 fromBE s

/-- RD32LE (R130). -/
def execRd32le (s : State) : Host.Outcome State Fault Refusal := readInteger 4 fromLE s

/-- RD64BE (R131): the 64-bit pattern itself (R135). -/
def execRd64be (s : State) : Host.Outcome State Fault Refusal := readInteger 8 fromBE s

/-- RD64LE (R132): the 64-bit pattern itself (R135). -/
def execRd64le (s : State) : Host.Outcome State Fault Refusal := readInteger 8 fromLE s

end Sys2Proof.Machine
end

