-- ==== Sys2Proof/Machine/Ripemd160.lean ====
section
/-! DEFINITION. RIPEMD-160, the external engine (spec/42_hash.md R180 to R185), a pure function of the message. The spec
marks these rules as its own, from general knowledge (log entry 9). -/

namespace Sys2Proof.Machine

/-- The step function `f(j, x, y, z)`, by the round `j div 16` (R182). -/
def rmdF (j : Nat) (x y z : W32) : W32 :=
  match j / 16 with
  | 0 => x ^^^ y ^^^ z
  | 1 => (x &&& y) ||| (~~~x &&& z)
  | 2 => (x ||| ~~~y) ^^^ z
  | 3 => (x &&& z) ||| (y &&& ~~~z)
  | _ => x ^^^ (y ||| ~~~z)

/-- The added constants of the left line, one per round (R181). -/
def rmdKL : List W32 := [0x00000000, 0x5a827999, 0x6ed9eba1, 0x8f1bbcdc, 0xa953fd4e]

/-- The added constants of the right line, one per round (R181). -/
def rmdKR : List W32 := [0x50a28be6, 0x5c4dd124, 0x6d703ef3, 0x7a6d76e9, 0x00000000]

/-- `RL`: the message word the left line takes at each step (R183). -/
def rmdRL : List Nat :=
  [0, 1, 2, 3, 4, 5, 6, 7, 8, 9, 10, 11, 12, 13, 14, 15] ++
  [7, 4, 13, 1, 10, 6, 15, 3, 12, 0, 9, 5, 2, 14, 11, 8] ++
  [3, 10, 14, 4, 9, 15, 8, 1, 2, 7, 0, 6, 13, 11, 5, 12] ++
  [1, 9, 11, 10, 0, 8, 12, 4, 13, 3, 7, 15, 14, 5, 6, 2] ++
  [4, 0, 5, 9, 7, 12, 2, 10, 14, 1, 3, 8, 11, 6, 15, 13]

/-- `RR`: the message word the right line takes at each step (R183). -/
def rmdRR : List Nat :=
  [5, 14, 7, 0, 9, 2, 11, 4, 13, 6, 15, 8, 1, 10, 3, 12] ++
  [6, 11, 3, 7, 0, 13, 5, 10, 14, 15, 8, 12, 4, 9, 1, 2] ++
  [15, 5, 1, 3, 7, 14, 6, 9, 11, 8, 12, 2, 10, 0, 4, 13] ++
  [8, 6, 4, 1, 3, 11, 15, 0, 5, 12, 2, 13, 9, 7, 10, 14] ++
  [12, 15, 10, 4, 1, 5, 8, 7, 6, 2, 13, 14, 0, 3, 9, 11]

/-- `SL`: the left line's rotation amounts (R183). -/
def rmdSL : List Nat :=
  [11, 14, 15, 12, 5, 8, 7, 9, 11, 13, 14, 15, 6, 7, 9, 8] ++
  [7, 6, 8, 13, 11, 9, 7, 15, 7, 12, 15, 9, 11, 7, 13, 12] ++
  [11, 13, 6, 7, 14, 9, 13, 15, 14, 8, 13, 6, 5, 12, 7, 5] ++
  [11, 12, 14, 15, 14, 15, 9, 8, 9, 14, 5, 6, 8, 6, 5, 12] ++
  [9, 15, 5, 11, 6, 8, 13, 12, 5, 12, 13, 14, 11, 8, 5, 6]

/-- `SR`: the right line's rotation amounts (R183). -/
def rmdSR : List Nat :=
  [8, 9, 9, 11, 13, 15, 15, 5, 7, 7, 8, 11, 14, 14, 12, 6] ++
  [9, 13, 15, 7, 12, 8, 9, 11, 7, 7, 12, 7, 6, 15, 13, 11] ++
  [9, 7, 15, 11, 8, 6, 6, 14, 12, 13, 5, 14, 13, 13, 7, 5] ++
  [15, 5, 8, 11, 14, 14, 6, 14, 6, 9, 12, 9, 12, 5, 15, 8] ++
  [8, 5, 12, 9, 12, 5, 14, 6, 8, 13, 6, 5, 15, 13, 11, 11]

/-- Five u32: the chaining value `h[0..4]` and the variables of one line (R185). -/
structure RmdRegs where
  (a b c d e : W32)
deriving DecidableEq, Repr

/-- The initial chaining value `h0[0..4]` (R181). -/
def rmdInit : RmdRegs :=
  { a := 0x67452301, b := 0xefcdab89, c := 0x98badcfe, d := 0x10325476, e := 0xc3d2e1f0 }

/-- `pad160(m)`: as `pad256` but with the length little-endian (R184). -/
def pad160 (m : Bytes) : Bytes :=
  m ++ [0x80#8] ++ List.replicate (padZeros m.length) 0#8 ++ leBytes 8 (8 * m.length)

/-- `X[0..15]`: the block's sixteen little-endian words (R185). -/
def rmdBlockWords (b : Bytes) : List W32 := (pieces 4 16 b).map fun q => BitVec.ofNat 32 (fromLE q)

/-- One step of a line: step function number `fj`, message word `x`, added constant `k`, rotation `r` (R185). -/
def rmdStep (v : RmdRegs) (fj : Nat) (x k : W32) (r : Nat) : RmdRegs :=
  let t := (v.a + rmdF fj v.b v.c v.d + x + k).rotateLeft r + v.e
  { a := v.e, b := t, c := v.b, d := v.c.rotateLeft 10, e := v.d }

/-- The 80 steps of the left line: `f(j, …)`, `RL`, `KL`, `SL` (R182, R185). -/
def rmdLeft (v : RmdRegs) (x : List W32) : RmdRegs :=
  (List.range 80).foldl (fun r j =>
    rmdStep r j (x.getD (rmdRL.getD j 0) 0) (rmdKL.getD (j / 16) 0) (rmdSL.getD j 0)) v

/-- The 80 steps of the right line: `f(79 − j, …)`, `RR`, `KR`, `SR` (R182, R185). -/
def rmdRight (v : RmdRegs) (x : List W32) : RmdRegs :=
  (List.range 80).foldl (fun r j =>
    rmdStep r (79 - j) (x.getD (rmdRR.getD j 0) 0) (rmdKR.getD (j / 16) 0) (rmdSR.getD j 0)) v

/-- The chaining value after a block: the two lines joined crosswise (R185). -/
def rmdBlock (h : RmdRegs) (b : Bytes) : RmdRegs :=
  let x := rmdBlockWords b
  let l := rmdLeft h x
  let r := rmdRight h x
  { a := h.b + l.c + r.d, b := h.c + l.d + r.e, c := h.d + l.e + r.a, d := h.e + l.a + r.b, e := h.a + l.b + r.c }

/-- The 20 digest bytes, each word little-endian, `h[0]` first (R185, R177). -/
def rmdOutput (h : RmdRegs) : Bytes := [h.a, h.b, h.c, h.d, h.e].flatMap fun x => leBytes 4 x.toNat

/-- `RMD160(m)` (R185). -/
def rmd160Digest (m : Bytes) : Bytes := rmdOutput ((blocks64 (pad160 m)).foldl rmdBlock rmdInit)

/-- `H160(m) = RMD160(SHA256(m))` (R170). -/
def hash160Digest (m : Bytes) : Bytes := rmd160Digest (sha256Digest m)

end Sys2Proof.Machine
end

