-- ==== Sys2Proof/Machine/Hash.lean ====
section
/-! DEFINITION. The HASH unit (spec/42_hash.md R186 to R189). A digest is placed in OBUF in the algorithm's own byte order
(R177). -/

namespace Sys2Proof.Machine

/-- SHA256 (R186). -/
def execSha256 (s : State) : Host.Outcome State Fault Refusal :=
  if inBounds s.buf0 (u64 s.arg1) (u64 s.arg2) then
    succeedWithObuf s (sha256Digest (memRead s.buf0 (u64 s.arg1) (u64 s.arg2)))
  else
    raise .outOfBounds s

/-- SHA256D (R187). -/
def execSha256d (s : State) : Host.Outcome State Fault Refusal :=
  if inBounds s.buf0 (u64 s.arg1) (u64 s.arg2) then
    succeedWithObuf s (doubleSha256 (memRead s.buf0 (u64 s.arg1) (u64 s.arg2)))
  else
    raise .outOfBounds s

/-- SHA256D2 (R188): the range of BUF0 comes first and is checked first. -/
def execSha256d2 (s : State) : Host.Outcome State Fault Refusal :=
  if inBounds s.buf0 (u64 s.arg1) (u64 s.arg2) then
    if inBounds s.buf1 (u64 s.arg3) (u64 s.arg4) then
      succeedWithObuf s (doubleSha256
        (memRead s.buf0 (u64 s.arg1) (u64 s.arg2) ++ memRead s.buf1 (u64 s.arg3) (u64 s.arg4)))
    else
      raise .outOfBounds s
  else
    raise .outOfBounds s

/-- HASH160 (R189). -/
def execHash160 (s : State) : Host.Outcome State Fault Refusal := succeedWithObuf s (hash160Digest s.buf0)

end Sys2Proof.Machine
end

