-- ==== Sys2Proof/Machine/VarInt.lean ====
section
/-! DEFINITION. The VARINT unit (spec/43_varint.md). -/

namespace Sys2Proof.Machine

/-- `vi_len(p)`: the total length a first byte implies (R210). -/
def viLen (p : Byte) : Nat :=
  if p.toNat < 0xFD then 1 else if p.toNat = 0xFD then 3 else if p.toNat = 0xFE then 5 else 9

/-- `vi_size(v)`: the length of the shortest form that holds the value (R213). -/
def viSize (v : Nat) : Nat :=
  if v < 0xFD then 1 else if v ≤ 0xFFFF then 3 else if v ≤ 0xFFFFFFFF then 5 else 9

/-- The encoding of a value (R211). -/
def viEncode (v : Nat) : Bytes :=
  if v < 0xFD then [byteOf v]
  else if v ≤ 0xFFFF then 0xFD#8 :: leBytes 2 v
  else if v ≤ 0xFFFFFFFF then 0xFE#8 :: leBytes 4 v
  else 0xFF#8 :: leBytes 8 v

/-- The value of a VarInt whose first byte is `p` at index 0 of `b` (R212). -/
def viValue (p : Byte) (b : Bytes) : Nat := if viLen p = 1 then p.toNat else fromLE (memRead b 1 (viLen p - 1))

/-- VI_ENC (R211). -/
def execViEnc (s : State) : Host.Outcome State Fault Refusal := succeedWithObuf s (viEncode (u64 s.arg0))

/-- VI_DEC (R212): longer forms than needed are accepted (R214), bytes after the VarInt are ignored (R215). -/
def execViDec (s : State) : Host.Outcome State Fault Refusal :=
  match s.buf0 with
  | [] => raise .varintTruncated s
  | p :: rest =>
    if (p :: rest).length < viLen p then raise .varintTruncated s
    else succeed ((s.setRes0 (BitVec.ofNat 64 (viValue p (p :: rest)))).setRes1 (BitVec.ofNat 64 (viLen p)))

end Sys2Proof.Machine
end

