-- ==== Sys2Proof/Machine/Dispatch.lean ====
section
/-! DEFINITION. One arm per command (spec/30_encoding.md R92): the command's rule evaluated against the state, with its
completion (spec/10_state.md R44). -/

namespace Sys2Proof.Machine

def exec (i : Instr) (s : State) : Host.Outcome State Fault Refusal :=
  match i with
  | .wr16be => Sys2Proof.Machine.execWr16be s
  | .wr16le => Sys2Proof.Machine.execWr16le s
  | .wr32be => Sys2Proof.Machine.execWr32be s
  | .wr32le => Sys2Proof.Machine.execWr32le s
  | .wr64be => Sys2Proof.Machine.execWr64be s
  | .wr64le => Sys2Proof.Machine.execWr64le s
  | .rd16be => Sys2Proof.Machine.execRd16be s
  | .rd16le => Sys2Proof.Machine.execRd16le s
  | .rd32be => Sys2Proof.Machine.execRd32be s
  | .rd32le => Sys2Proof.Machine.execRd32le s
  | .rd64be => Sys2Proof.Machine.execRd64be s
  | .rd64le => Sys2Proof.Machine.execRd64le s
  | .revb => Sys2Proof.Machine.execRevb s
  | .revdw => Sys2Proof.Machine.execRevdw s
  | .bitchk => Sys2Proof.Machine.execBitchk s
  | .bitset => Sys2Proof.Machine.execBitset s
  | .hex2bin => Sys2Proof.Machine.execHex2bin s
  | .bin2hex => Sys2Proof.Machine.execBin2hex s
  | .sha256 => Sys2Proof.Machine.execSha256 s
  | .sha256d => Sys2Proof.Machine.execSha256d s
  | .sha256d2 => Sys2Proof.Machine.execSha256d2 s
  | .hash160 => Sys2Proof.Machine.execHash160 s
  | .viEnc => Sys2Proof.Machine.execViEnc s
  | .viDec => Sys2Proof.Machine.execViDec s
  | .b58Enc => Sys2Proof.Machine.execB58Enc s
  | .b58Dec => Sys2Proof.Machine.execB58Dec s
  | .b58cEnc => Sys2Proof.Machine.execB58cEnc s
  | .b58cDec => Sys2Proof.Machine.execB58cDec s

end Sys2Proof.Machine
end

