-- ==== Sys2Proof/Machine/HostPort.lean ====
section
/-! DEFINITION. The host port operations (spec/10_state.md R40 to R46), the register numbers they use (R31), and the
platform's reset (spec/70_reset_and_hazards.md R320). -/

namespace Sys2Proof.Machine

/-- `HostWriteArg(i, v)`: dropped while BUSY (R40). -/
def hostWriteArg (i : Nat) (v : Word) (s : State) : State := if s.status.busy then s else s.setArg i v

/-- `HostLoadBuf(n, s)`: dropped while BUSY or when longer than BUF_CAP (R41); there is no buffer to load but BUF0 and
BUF1 (log entry 7). -/
def hostLoadBuf (n : Nat) (b : Bytes) (s : State) : State :=
  if s.status.busy then s
  else if b.length > s.cfg.bufCap then s
  else
    match n with
    | 0 => s.setBuf0 b
    | 1 => s.setBuf1 b
    | _ => s

/-- `HostIssue(op)`: dropped while BUSY (R42). -/
def hostIssue (op : BitVec 8) (s : State) : State :=
  if s.status.busy then s else (s.setCmd op).setStatus s.status.issued

/-- The value of register number `r` (R31, R45); a number that names nothing reads as 0. -/
def readRegister (s : State) (r : Nat) : HostValue :=
  match r with
  | 0 => .word (s.cmd.setWidth 64)
  | 1 => .word (s.status.word.setWidth 64)
  | 2 => .word s.arg0
  | 3 => .word s.arg1
  | 4 => .word s.arg2
  | 5 => .word s.arg3
  | 6 => .word s.arg4
  | 7 => .word s.res0
  | 8 => .word s.res1
  | 9 => .word ((BitVec.ofNat 32 s.len0).setWidth 64)
  | 10 => .word ((BitVec.ofNat 32 s.len1).setWidth 64)
  | 11 => .word ((BitVec.ofNat 32 s.olen).setWidth 64)
  | 16 => .bytes s.buf0
  | 17 => .bytes s.buf1
  | 18 => .bytes s.obuf
  | _ => .word 0

/-- `HostRead(r)`: the host gets the value, the block is unchanged (R45). -/
def hostRead (r : Nat) (s : State) : State := { s with hostReads := readRegister s r :: s.hostReads }

/-- `HostClearSticky`, BUSY or not (R46). -/
def hostClearSticky (s : State) : State := s.setStatus s.status.stickyCleared

/-- One host port operation (R20 (b)). -/
def hostStep (op : HostOp) (s : State) : State :=
  match op with
  | .writeArg i v => hostWriteArg i v s
  | .loadBuf n b => hostLoadBuf n b s
  | .issue w => hostIssue w s
  | .read r => hostRead r s
  | .clearSticky => hostClearSticky s

/-- `reset` (R320): every register takes its reset value and a command in flight is abandoned. The parameters (R30) and
what is outside the block (the schedule and what the host has read) stay (log entry 11). -/
def resetBlock (s : State) : State :=
  { State.reset with cfg := s.cfg, schedule := s.schedule, hostReads := s.hostReads }

end Sys2Proof.Machine
end

