-- ==== Sys2Proof/Machine/Complete.lean ====
section
/-! DEFINITION. The block's step `complete` (spec/10_state.md R44) and one step of any agent (R20). -/

namespace Sys2Proof.Machine

/-- The command in flight completes: the rule of the command word in CMD, or ILLEGAL_COMMAND before everything where CMD
holds no assigned word (spec/30_encoding.md R98, spec/60_exceptions.md R285, R288). -/
def completeInFlight (s : State) : Host.Outcome State Fault Refusal :=
  match decodeWord s.cmd with
  | .ok i => exec i s
  | .error _ => raise .illegalCommand s

/-- The block's turn: `complete` is enabled exactly when BUSY (R44); an idle block does nothing (log entry 2). -/
def complete (s : State) : Host.Outcome State Fault Refusal :=
  if s.status.busy then completeInFlight s else .next s

/-- One step of the agent the event names (R20). -/
def perform (e : Event) (s : State) : Host.Outcome State Fault Refusal :=
  match e with
  | .host op => .next (hostStep op s)
  | .reset => .next (resetBlock s)
  | .complete => complete s

/-- The steps of a list of events, in order. -/
def performAll : List Event → State → Host.Outcome State Fault Refusal
  | [], s => .next s
  | e :: rest, s =>
    match perform e s with
    | .next t => performAll rest t
    | .fault r => .fault r
    | .refused r => .refused r

/-- The machine's next step: the first event of the schedule, or the block's turn when nothing is scheduled, so that a
command in flight always completes (R44; log entry 2). -/
def nextStep (s : State) : Host.Outcome State Fault Refusal :=
  match s.schedule with
  | [] => complete s
  | e :: rest => perform e (s.setSchedule rest)

/-- `s` with the command word `op` in flight and the block's `complete` next: the state an accepted HostIssue of `op`
leaves (R42), whatever was in flight before (log entry 3). -/
def withCommandInFlight (s : State) (op : BitVec 8) : State :=
  ((s.setCmd op).setStatus s.status.issued).setSchedule (.complete :: s.schedule)

end Sys2Proof.Machine
end

