-- ==== Sys2Proof/Machine/Step.lean ====
section
/-! DEFINITION. The step of the machine, and where it takes its next command from. -/

namespace Sys2Proof.Machine

/-- One step of the machine: the next agent's (spec/10_state.md R20; spec/20_memory.md R72). -/
def step (s : State) : Host.Outcome State Fault Refusal := nextStep s

/-- `s` with a command of `nbits` bits `w` where the next step takes its command from: CMD, in flight (log entry 3). -/
def State.withFetchWord (s : State) (nbits w : Nat) : State := withCommandInFlight s (BitVec.ofNat 8 (w % 2 ^ nbits))

end Sys2Proof.Machine
end

