-- ==== Sys2Proof/Machine/HostScript.lean ====
section
/-! DEFINITION. The pseudo-instructions: host scripts over the commands (spec/30_encoding.md R101, R103 to R106). The host's
variables and control flow are software; what reaches the block is the host port operations and the block's own
`complete`, for which the host waits (log entry 12). -/

namespace Sys2Proof.Machine

/-- What a script ends with: `return` of bytes, of a version and a hash, of no value, or `fail` with an error kind. -/
inductive ScriptEnd where
  | bytes (b : Bytes)
  | address (version : Byte) (hash : Bytes)
  | noValue
  | failed (k : ErrorKind)
deriving DecidableEq, Repr

/-- What a script answers: the machine after it, and how it ended. -/
abbrev ScriptOutcome := Host.Outcome (State × ScriptEnd) Fault Refusal

/-- Run the block, then go on with the state it is left in. -/
def andThen (o : Host.Outcome State Fault Refusal) (k : State → ScriptOutcome) : ScriptOutcome :=
  match o with
  | .next t => k t
  | .fault r => .fault r
  | .refused r => .refused r

/-- A command without operands (R101): issue it and wait until it has completed. -/
def runCommand (i : Instr) (s : State) : Host.Outcome State Fault Refusal :=
  performAll [.host (.issue (encode i)), .complete] s

/-- `BUF0 = b`, then a command without operands. -/
def loadAndRun (b : Bytes) (i : Instr) (s : State) : Host.Outcome State Fault Refusal :=
  performAll [.host (.loadBuf 0 b), .host (.issue (encode i)), .complete] s

/-- `TOADDRESS(pubKeyHash, versionByte)` (R104): the argument checks are the software's, before any command (R103). -/
def toAddress (pubKeyHash : Bytes) (versionByte : Int) (s : State) : ScriptOutcome :=
  if pubKeyHash.length ≠ 20 ∨ versionByte < 0 ∨ versionByte > 255 then .next (s, .failed .preconditionViolation)
  else
    andThen (loadAndRun (byteOf versionByte.toNat :: pubKeyHash) .b58cEnc s) fun t => .next (t, .bytes t.obuf)

/-- `PARSEADDRESS(address)` (R105): no check of the hash's length. -/
def parseAddress (address : Bytes) (s : State) : ScriptOutcome :=
  andThen (loadAndRun address .b58cDec s) fun t =>
    if t.status.kind ≠ 0 then .next (t, .failed .decodeFormatError)
    else
      match t.obuf with
      | [] => .next (t, .failed .decodeFormatError)
      | version :: hash => .next (t, .address version hash)

/-- `PARSEHEXORB58(data)` (R106). -/
def parseHexOrB58 (data : Bytes) (s : State) : ScriptOutcome :=
  andThen (loadAndRun data .hex2bin s) fun t =>
    if t.status.kind = 0 then .next (t, .bytes t.obuf)
    else
      andThen (runCommand .b58cDec t) fun u =>
        if u.status.kind = 0 then .next (u, .bytes u.obuf) else .next (u, .noValue)

end Sys2Proof.Machine
end

