-- ==== Sys2Proof/Machine/Instances.lean ====
section
/-! DEFINITION. `N_INST` independent instances of the block (spec/00_scope.md R8, spec/60_exceptions.md R304): each has its
own state and they share nothing (log entry 8). -/

namespace Sys2Proof.Machine

/-- The instances of a chip, one state each; `N_INST` is the length. -/
abbrev Instances := List State

/-- Instance `k` takes its next step; where there is no such instance, nothing happens. -/
def stepInstance (k : Nat) (xs : Instances) : Host.Outcome Instances Fault Refusal :=
  match xs[k]? with
  | none => .next xs
  | some s =>
    match step s with
    | .next t => .next (xs.set k t)
    | .fault r => .fault r
    | .refused r => .refused r

end Sys2Proof.Machine
end

