-- ==== Sys2Proof/Safety.lean ====
section
/-! DEFINITION. What a safe state and a safe run of the block are, in the terms the claims use. -/

namespace Sys2Proof.Machine

/-- Every cause of an error (spec/60_exceptions.md R284). -/
def ErrorDetail.all : List ErrorDetail :=
  [.outOfBounds, .badLengthMod4, .badTrim, .capacity, .illegalCommand, .hexOddLength, .hexBadDigit, .varintTruncated,
   .b58BadChar, .b58cTooShort, .b58cBadChecksum]

/-- KIND and DETAIL are those of success or of one row of R284. -/
def Status.codesLegal (t : Status) : Bool :=
  (t.kind == 0 && t.detail == 0) || ErrorDetail.all.any fun d => t.kind == d.kind.code && t.detail == d.code

/-- STATUS never shows what R25, R42 and R44 rule out: a command in flight is neither done nor in error, an error is
shown only after a completion, and KIND with DETAIL is success or a row of R284. -/
def Status.legal (t : Status) : Bool :=
  if t.done then !t.busy && t.codesLegal else t.kind == 0 && t.detail == 0

/-- The invariant of the machine: the parameters are in their range (spec/00_scope.md R8), each buffer fits its capacity
(spec/10_state.md R23), STATUS is legal. -/
def State.Inv (s : State) : Prop := s.cfg.wf = true ∧ s.mem.wf s.cfg = true ∧ s.status.legal = true

/-- No error has been recorded since reset or the last HostClearSticky (spec/60_exceptions.md R282, R292). -/
def State.errorFree (s : State) : Bool := !s.status.estk

/-- A run of `k` steps that answers a next state in which no error is recorded. -/
def safeRun (k : Nat) (s : State) : Prop := ∃ t, Sys2Proof.core.run k s = .next t ∧ State.errorFree t = true

end Sys2Proof.Machine
end

