-- ==== Sys2Proof/Certificates/Slice0/Obligations.lean ====
section
/-! DEFINITION. The statements for the provers. What a rule says is written here in the rule's own terms (bytes at
indices, bits, sums), beside the model's meanings, and the two are to be proved equal. -/

namespace Sys2Proof.Spec

open Sys2Proof.Machine

/-! ### The spec's terms -/

/-- The state after a command that succeeds and has written what `s` holds (spec/10_state.md R44). -/
def done (s : State) : State :=
  { s with status := { busy := false, done := true, estk := s.status.estk, kind := 0, detail := 0 } }

/-- The state after the error completion with this kind and detail code (spec/60_exceptions.md R290). -/
def failed (s : State) (kind : BitVec 3) (detail : BitVec 8) : State :=
  { s with status := { busy := false, done := true, estk := true, kind := kind, detail := detail } }

/-- `s` with other bytes in BUF0. -/
def withBuf0 (s : State) (b : Bytes) : State := { s with mem := { s.mem with buf0 := b } }

/-- `s` with other bytes in OBUF. -/
def withObuf (s : State) (b : Bytes) : State := { s with mem := { s.mem with obuf := b } }

/-- `s` with a command word issued and in flight (spec/10_state.md R42). -/
def issued (s : State) (op : BitVec 8) : State :=
  { s with cmd := op, status := { busy := true, done := false, estk := s.status.estk, kind := 0, detail := 0 } }

/-- A text, one ASCII byte per character (spec/20_memory.md R66). -/
def text (t : String) : Bytes := t.toList.map fun c => BitVec.ofNat 8 c.toNat

/-- The Base58 alphabet as the source prints it (spec/44_base58.md R230). -/
def alphabet : Bytes := text "123456789ABCDEFGHJKLMNPQRSTUVWXYZabcdefghijkmnopqrstuvwxyz"

/-- The characters of `hexchar` (spec/41_bytearray.md R162). -/
def hexDigits : Bytes := text "0123456789abcdef"

/-- The value of a hex digit; `A` to `F` count only where HEX_UPPER_OK is true (R161). -/
def hexDigit (upperOk : Bool) (c : Byte) : Option Nat :=
  match hexDigits.findIdx? (· == c), (text "ABCDEF").findIdx? (· == c) with
  | some v, _ => some v
  | none, some v => if upperOk then some (10 + v) else none
  | none, none => none

/-- A hex digit in lower case. -/
def lowerHex (c : Byte) : Byte := if c ∈ text "ABCDEF" then c + 0x20#8 else c

/-- The number whose base-`base` digits are `ds`, least significant first. -/
def sumDigits (base : Nat) (ds : List Nat) : Nat := ds.foldr (fun d acc => d + base * acc) 0

/-- `from_be` of a byte sequence (spec/00_scope.md R12). -/
def bigEndian (b : Bytes) : Nat := sumDigits 256 (b.reverse.map BitVec.toNat)

/-- How many of the first elements equal `x`, before the first that does not. -/
def leading (x : Byte) : Bytes → Nat
  | [] => 0
  | y :: rest => if y = x then leading x rest + 1 else 0

/-- The opcode map (spec/30_encoding.md R92). -/
def assigned : List (BitVec 8 × Instr) :=
  [(0x10#8, .wr16be), (0x11#8, .wr16le), (0x12#8, .wr32be), (0x13#8, .wr32le), (0x14#8, .wr64be), (0x15#8, .wr64le)] ++
  [(0x18#8, .rd16be), (0x19#8, .rd16le), (0x1A#8, .rd32be), (0x1B#8, .rd32le), (0x1C#8, .rd64be), (0x1D#8, .rd64le)] ++
  [(0x20#8, .revb), (0x21#8, .revdw), (0x22#8, .bitchk), (0x23#8, .bitset), (0x24#8, .hex2bin), (0x25#8, .bin2hex)] ++
  [(0x30#8, .sha256), (0x31#8, .sha256d), (0x32#8, .sha256d2), (0x33#8, .hash160), (0x40#8, .viEnc), (0x41#8, .viDec)] ++
  [(0x50#8, .b58Enc), (0x51#8, .b58Dec), (0x52#8, .b58cEnc), (0x53#8, .b58cDec)]

/-- The illegal command words, range by range (R98). -/
def illegal (w : BitVec 8) : Bool :=
  decide (w.toNat ≤ 0x0F) || [0x16#8, 0x17#8, 0x1E#8, 0x1F#8].contains w ||
  (decide (0x26 ≤ w.toNat) && decide (w.toNat ≤ 0x2F)) || (decide (0x34 ≤ w.toNat) && decide (w.toNat ≤ 0x3F)) ||
  (decide (0x42 ≤ w.toNat) && decide (w.toNat ≤ 0x4F)) || (decide (0x54 ≤ w.toNat) && decide (w.toNat ≤ 0x5F)) ||
  decide (0x60 ≤ w.toNat)

/-- A BYTEORDER command: its word, itself, its width in bytes, and whether it is big-endian. -/
structure AccessRow where
  word : BitVec 8
  instr : Instr
  width : Nat
  big : Bool

/-- The six WR commands (spec/40_byteorder.md R121 to R126). -/
def wrRows : List AccessRow :=
  [⟨0x10#8, .wr16be, 2, true⟩, ⟨0x11#8, .wr16le, 2, false⟩, ⟨0x12#8, .wr32be, 4, true⟩,
   ⟨0x13#8, .wr32le, 4, false⟩, ⟨0x14#8, .wr64be, 8, true⟩, ⟨0x15#8, .wr64le, 8, false⟩]

/-- The six RD commands (R127 to R132). -/
def rdRows : List AccessRow :=
  [⟨0x18#8, .rd16be, 2, true⟩, ⟨0x19#8, .rd16le, 2, false⟩, ⟨0x1A#8, .rd32be, 4, true⟩,
   ⟨0x1B#8, .rd32le, 4, false⟩, ⟨0x1C#8, .rd64be, 8, true⟩, ⟨0x1D#8, .rd64le, 8, false⟩]

/-- Which byte of the integer, counted from the least significant, stands `j` bytes after the offset (R12, R65). -/
def AccessRow.place (r : AccessRow) (j : Nat) : Nat := if r.big then r.width - 1 - j else j

/-- A WR command, the RD command of the same width and order, and the width (R134). -/
def pairRows : List (Instr × Instr × Nat) :=
  [(.wr16be, .rd16be, 2), (.wr16le, .rd16le, 2), (.wr32be, .rd32be, 4),
   (.wr32le, .rd32le, 4), (.wr64be, .rd64be, 8), (.wr64le, .rd64le, 8)]

/-- The two WR commands of one width, and the width (R134). -/
def orderRows : List (Instr × Instr × Nat) := [(.wr16be, .wr16le, 2), (.wr32be, .wr32le, 4), (.wr64be, .wr64le, 8)]

/-- `x` decodes as Base58Check: all in the alphabet, four bytes or more, the last four the checksum of the rest
(spec/44_base58.md R235), in the spec's order of checks (spec/60_exceptions.md R288). -/
def checkedCause (x : Bytes) : Option (BitVec 3 × BitVec 8) :=
  match base58Decode x with
  | none => some (2, 0x13)
  | some d =>
    if d.length < 4 then some (2, 0x14)
    else if (doubleSha256 (d.take (d.length - 4))).take 4 ≠ d.drop (d.length - 4) then some (2, 0x15)
    else none

/-- The length a VarInt's first byte implies (spec/43_varint.md R210). -/
def impliedLength (p : Byte) : Nat := if p = 0xFD#8 then 3 else if p = 0xFE#8 then 5 else if p = 0xFF#8 then 9 else 1

/-- The causes of error of every command with KIND and DETAIL, in the order of the checks (spec/60_exceptions.md R284,
R288); `none` where the command succeeds. -/
def causeOf (i : Instr) (s : State) : Option (BitVec 3 × BitVec 8) :=
  match i with
  | .wr16be | .wr16le | .rd16be | .rd16le => if s.arg1.toNat + 2 > s.len0 then some (1, 0x01) else none
  | .wr32be | .wr32le | .rd32be | .rd32le => if s.arg1.toNat + 4 > s.len0 then some (1, 0x01) else none
  | .wr64be | .wr64le | .rd64be | .rd64le => if s.arg1.toNat + 8 > s.len0 then some (1, 0x01) else none
  | .bitchk | .bitset => if s.arg1.toNat / 8 ≥ s.len0 then some (1, 0x01) else none
  | .sha256 | .sha256d => if s.arg1.toNat + s.arg2.toNat > s.len0 then some (1, 0x01) else none
  | .sha256d2 =>
    if s.arg1.toNat + s.arg2.toNat > s.len0 ∨ s.arg3.toNat + s.arg4.toNat > s.len1 then some (1, 0x01) else none
  | .revdw =>
    if s.len0 % 4 ≠ 0 then some (1, 0x02)
    else if 0 ≤ s.arg0.toInt ∧ s.arg0.toInt % 4 ≠ 0 then some (1, 0x03)
    else none
  | .bin2hex => if 2 * s.len0 > s.cfg.bufCap then some (1, 0x04) else none
  | .b58Enc => if (base58Encode s.buf0).length > s.cfg.bufCap then some (1, 0x04) else none
  | .b58cEnc =>
    if (base58Encode (s.buf0 ++ (doubleSha256 s.buf0).take 4)).length > s.cfg.bufCap then some (1, 0x04) else none
  | .hex2bin =>
    if s.len0 % 2 = 1 then some (2, 0x10)
    else if s.buf0.any fun c => (hexDigit s.cfg.hexUpperOk c).isNone then some (2, 0x11)
    else none
  | .viDec =>
    match s.buf0 with
    | [] => some (2, 0x12)
    | p :: rest => if rest.length + 1 < impliedLength p then some (2, 0x12) else none
  | .b58Dec => if s.buf0.any fun c => !alphabet.contains c then some (2, 0x13) else none
  | .b58cDec => if s.buf0.any fun c => !alphabet.contains c then some (2, 0x13) else checkedCause s.buf0
  | .revb | .hash160 | .viEnc => none

/-- The commands that write BUF0 in place (spec/20_memory.md R61). -/
def buf0Writers : List Instr := [.wr16be, .wr16le, .wr32be, .wr32le, .wr64be, .wr64le, .bitset]

/-- The commands that replace OBUF (R61). -/
def obufWriters : List Instr :=
  [.revb, .revdw, .hex2bin, .bin2hex, .sha256, .sha256d, .sha256d2, .hash160, .viEnc, .b58Enc, .b58Dec, .b58cEnc, .b58cDec]

/-- The commands that write RES0 (spec/10_state.md R22). -/
def res0Writers : List Instr := [.rd16be, .rd16le, .rd32be, .rd32le, .rd64be, .rd64le, .bitchk, .viDec]

/-- Two states agree on everything a command reads: the parameters, the ARG registers of its row (spec/30_encoding.md
R95), BUF0 unless it is VI_ENC, BUF1 if it is SHA256D2 (R61). -/
def agreeOnOperands (i : Instr) (s u : State) : Prop :=
  s.cfg = u.cfg ∧ (∀ k ∈ i.argRegs, s.arg k = u.arg k) ∧ (i ≠ .viEnc → s.buf0 = u.buf0) ∧
  (i = .sha256d2 → s.buf1 = u.buf1)

/-- `a` is the index of a byte of BUF0 that `i` stores to at `s`: the w bytes from the offset on for a WR command, the
byte of the bit index for BITSET, none for any other command (R95). -/
def storesAt (i : Instr) (s : State) (a : Nat) : Prop :=
  match i with
  | .wr16be | .wr16le => u64 s.arg1 ≤ a ∧ a < u64 s.arg1 + 2
  | .wr32be | .wr32le => u64 s.arg1 ≤ a ∧ a < u64 s.arg1 + 4
  | .wr64be | .wr64le => u64 s.arg1 ≤ a ∧ a < u64 s.arg1 + 8
  | .bitset => a = u64 s.arg1 >>> 3
  | .rd16be | .rd16le | .rd32be | .rd32le | .rd64be | .rd64le => False
  | .revb | .revdw | .bitchk | .hex2bin | .bin2hex | .sha256 | .sha256d | .sha256d2 | .hash160 => False
  | .viEnc | .viDec | .b58Enc | .b58Dec | .b58cEnc | .b58cDec => False

/-- Everything but STATUS and the result places of `i` is the same in `t` as in `s`, every byte of BUF0 that `i` does not
store to among it (R95). -/
def onlyResultsChanged (i : Instr) (s t : State) : Prop :=
  t.cfg = s.cfg ∧ t.cmd = s.cmd ∧ (∀ k, t.arg k = s.arg k) ∧ t.buf1 = s.buf1 ∧ t.len0 = s.len0 ∧
  t.schedule = s.schedule ∧ t.hostReads = s.hostReads ∧
  (∀ a, ¬ storesAt i s a → t.buf0[a]? = s.buf0[a]?) ∧ (i ∉ buf0Writers → t.buf0 = s.buf0) ∧ (i ∉ obufWriters → t.obuf = s.obuf) ∧
  (i ∉ res0Writers → t.res0 = s.res0) ∧ (i ≠ .viDec → t.res1 = s.res1)

/-- The 32 bits of STATUS, and zeros above them, bit by bit (spec/10_state.md R25). -/
def statusBits (t : Status) (w : BitVec 64) : Prop :=
  w.getLsbD 0 = t.busy ∧ w.getLsbD 1 = t.done ∧ w.getLsbD 2 = t.estk ∧ w.extractLsb' 3 5 = 0 ∧
  w.extractLsb' 8 3 = t.kind ∧ w.extractLsb' 11 5 = 0 ∧ w.extractLsb' 16 8 = t.detail ∧ w.extractLsb' 24 40 = 0

/-- One 64-byte block of SHA-256 as the recurrences of spec/42_hash.md R175 over an index: `W` is the message schedule,
`V t` the working variables before round `t`. -/
structure Sha256Trace (h : Sha256Regs) (b : Bytes) (W : Nat → W32) (V : Nat → Sha256Regs) : Prop where
  first : ∀ t < 16, (W t).toNat = bigEndian ((b.drop (4 * t)).take 4)
  later : ∀ t, 16 ≤ t → t < 64 → W t = shaSmallS1 (W (t - 2)) + W (t - 7) + shaSmallS0 (W (t - 15)) + W (t - 16)
  start : V 0 = h
  round : ∀ t < 64, ∀ T1 T2 : W32,
    T1 = (V t).h + shaBigS1 (V t).e + shaCh (V t).e (V t).f (V t).g + shaK.getD t 0 + W t →
    T2 = shaBigS0 (V t).a + shaMaj (V t).a (V t).b (V t).c →
    V (t + 1) = ⟨T1 + T2, (V t).a, (V t).b, (V t).c, (V t).d + T1, (V t).e, (V t).f, (V t).g⟩

/-- One line of RIPEMD-160 over an index (R185): `L j` are the variables before step `j`, with step function number
`fn j`, word `x j`, constant `k j`, rotation `r j`. -/
structure RmdTrace (h : RmdRegs) (L : Nat → RmdRegs) (fn : Nat → Nat) (x k : Nat → W32) (r : Nat → Nat) : Prop where
  start : L 0 = h
  step : ∀ j < 80, L (j + 1) =
    ⟨(L j).e, ((L j).a + rmdF (fn j) (L j).b (L j).c (L j).d + x j + k j).rotateLeft (r j) + (L j).e, (L j).b,
      (L j).c.rotateLeft 10, (L j).d⟩

end Sys2Proof.Spec

open Sys2Proof Sys2Proof.Machine Sys2Proof.Spec

/-! ### Encoding and the step -/

/-- R92: the 28 command words and the command each stands for, all 8 bits matched. -/
def Obligations.OpcodeMapIsDecoded : Prop :=
  assigned.length = 28 ∧ ∀ w i, decodeWord w = .ok i ↔ (w, i) ∈ assigned

/-- Decoding the word of a command gives the command, and no other word decodes to it. -/
def Obligations.DecodeInvertsEncode : Prop :=
  ∀ (i : Instr) (w : BitVec 8), decodeWord w = .ok i ↔ w = encode i

/-- R98, R285: the 228 words that are not assigned; an accepted issue of one completes as ILLEGAL_COMMAND and changes
nothing but CMD (by the issue) and STATUS. -/
def Obligations.UnassignedWordsCompleteAsIllegalCommand : Prop :=
  ((List.range 256).filter fun n => illegal (BitVec.ofNat 8 n)).length = 228 ∧
  ∀ (s : State) (op : BitVec 8), illegal op = true → s.status.busy = false →
    performAll [.host (.issue op), .complete] s = .next (failed { s with cmd := op } 1 0x05)

/-- When a command is in flight and the block's turn has come, the step is the meaning of the command its word decodes
to, at that state with the turn taken off the schedule. -/
def Obligations.StepRunsTheCommandInFlight : Prop :=
  ∀ (s : State) (i : Instr), s.status.busy = true → decodeWord s.cmd = .ok i →
    (s.schedule = [] → step s = exec i s) ∧
    (∀ rest, s.schedule = .complete :: rest → step s = exec i { s with schedule := rest })

/-- The command the host puts in place with `withFetchWord` is the one the next step runs. -/
def Obligations.FetchWordIsRunByTheNextStep : Prop :=
  ∀ (s : State) (nbits w : Nat) (i : Instr), decodeTableWord nbits w = some i →
    step (s.withFetchWord nbits w) = exec i (issued s (encode i))

/-- A step performs the first event of the schedule, `complete` among them whatever CMD holds; with nothing scheduled it
is the block's turn. On an idle block either turn of the block changes nothing but the schedule. All of it is the model's
own interleaving, DESIGN CHOICE of log entry 2. -/
def Obligations.StepPerformsTheScheduledEvent : Prop :=
  ∀ (s : State),
    (∀ op rest, s.schedule = .host op :: rest → step s = .next (hostStep op { s with schedule := rest })) ∧
    (∀ rest, s.schedule = .reset :: rest → step s = .next (resetBlock { s with schedule := rest })) ∧
    (∀ rest, s.schedule = .complete :: rest → step s = complete { s with schedule := rest }) ∧
    (s.schedule = [] → step s = complete s) ∧
    (∀ rest, s.schedule = .complete :: rest → s.status.busy = false → step s = .next { s with schedule := rest }) ∧
    (s.schedule = [] → s.status.busy = false → step s = .next s)

/-- A well-formed statement stands for the writes of its operands, in the registers its row names, before the issue of its
command (spec/30_encoding.md section 6). That the wait for the command is one `complete`, in place of repeated reads of
STATUS, is the model's choice, log entry 12. -/
def Obligations.StatementRunsItsCommandOnItsOperands : Prop :=
  ∀ (st : Stmt) (s : State), st.wf = true → s.status.busy = false →
    ∃ t : State, performAll st.events s = exec st.instr t ∧ t.cmd = encode st.instr ∧
      (∀ o ∈ st.operands, t.arg o.1 = o.2) ∧ (∀ k, k ∉ st.instr.argRegs → t.arg k = s.arg k) ∧
      t.status = (issued s t.cmd).status ∧ t.cfg = s.cfg ∧ t.mem = s.mem ∧ t.res0 = s.res0 ∧ t.res1 = s.res1 ∧
      t.schedule = s.schedule ∧ t.hostReads = s.hostReads

/-! ### The host port -/

/-- R40. -/
def Obligations.HostWriteArgSetsOneRegisterWhenIdle : Prop :=
  ∀ (s : State) (i : Nat) (v : Word), i ≤ 4 →
    (s.status.busy = true → hostStep (.writeArg i v) s = s) ∧
    (s.status.busy = false → ∃ t, hostStep (.writeArg i v) s = t ∧ t.arg i = v ∧ (∀ j, j ≠ i → t.arg j = s.arg j) ∧
      t = { s with arg0 := t.arg0, arg1 := t.arg1, arg2 := t.arg2, arg3 := t.arg3, arg4 := t.arg4 })

/-- R41: the bytes and with them the length; dropped while BUSY or when longer than BUF_CAP. -/
def Obligations.HostLoadBufReplacesABufferWhenIdle : Prop :=
  ∀ (s : State) (b : Bytes),
    (s.status.busy = false ∧ b.length ≤ s.cfg.bufCap →
      hostStep (.loadBuf 0 b) s = { s with mem := { s.mem with buf0 := b } } ∧
      hostStep (.loadBuf 1 b) s = { s with mem := { s.mem with buf1 := b } }) ∧
    (s.status.busy = true ∨ s.cfg.bufCap < b.length →
      hostStep (.loadBuf 0 b) s = s ∧ hostStep (.loadBuf 1 b) s = s)

/-- R42. -/
def Obligations.HostIssueStartsACommandWhenIdle : Prop :=
  ∀ (s : State) (op : BitVec 8),
    (s.status.busy = false → hostStep (.issue op) s = issued s op) ∧
    (s.status.busy = true → hostStep (.issue op) s = s)

/-- R45: what each register number of R31 reads as, with STATUS laid out as R25 says; the block is unchanged, at any
time. The host's record of its reads and the zeros above a narrow register are the model's choice, log entry 4. -/
def Obligations.HostReadReturnsTheRegisterAndChangesNothing : Prop :=
  ∀ (s : State) (r : Nat), ∃ v, hostStep (.read r) s = { s with hostReads := v :: s.hostReads } ∧
    (r = 0 → v = .word (s.cmd.setWidth 64)) ∧
    (r = 1 → ∃ w, v = .word w ∧ statusBits s.status w) ∧
    (2 ≤ r → r ≤ 6 → v = .word (s.arg (r - 2))) ∧
    (r = 7 → v = .word s.res0) ∧ (r = 8 → v = .word s.res1) ∧
    (r = 9 → ∃ w : Word, v = .word w ∧ (s.len0 < 2 ^ 32 → w.toNat = s.len0)) ∧
    (r = 10 → ∃ w : Word, v = .word w ∧ (s.len1 < 2 ^ 32 → w.toNat = s.len1)) ∧
    (r = 11 → ∃ w : Word, v = .word w ∧ (s.olen < 2 ^ 32 → w.toNat = s.olen)) ∧
    (r = 16 → v = .bytes s.buf0) ∧ (r = 17 → v = .bytes s.buf1) ∧ (r = 18 → v = .bytes s.obuf) ∧
    (12 ≤ r → r ≤ 15 → v = .word 0) ∧ (19 ≤ r → v = .word 0)

/-- R46. -/
def Obligations.HostClearStickyClearsOnlyTheStickyBit : Prop :=
  ∀ s : State, hostStep .clearSticky s = { s with status := { s.status with estk := false } }

/-- Every register after reset, BUSY or not, at the values of R48; a command in flight is abandoned (R320). That the
parameters, the schedule and the host's record stay is the model's inference, log entry 11. -/
def Obligations.ResetPutsEveryRegisterAtItsResetValue : Prop :=
  ∀ s : State, perform .reset s = .next
    { cfg := s.cfg, cmd := 0x00, status := { busy := false, done := false, estk := false, kind := 0, detail := 0 },
      arg0 := 0, arg1 := 0, arg2 := 0, arg3 := 0, arg4 := 0, res0 := 0, res1 := 0,
      mem := { buf0 := [], buf1 := [], obuf := [] }, schedule := s.schedule, hostReads := s.hostReads } ∧
    perform .reset State.reset = .next State.reset

/-- R43: whatever the host does while a command is in flight, the operand state and the command stay. -/
def Obligations.OperandStateIsLockedWhileBusy : Prop :=
  ∀ (ops : List HostOp) (s : State), s.status.busy = true → ∃ t, performAll (ops.map .host) s = .next t ∧
    t.status.busy = true ∧ t.cmd = s.cmd ∧ (∀ k, t.arg k = s.arg k) ∧ t.mem = s.mem ∧ t.res0 = s.res0 ∧ t.res1 = s.res1

/-! ### Completion, errors, and what a command may touch -/

/-- R290, R44: a command in flight completes in one step; either STATUS says success and ESTK is kept, or the state is
the one before with only STATUS changed and ESTK set. -/
def Obligations.CompletionSucceedsOrChangesOnlyStatus : Prop :=
  ∀ s : State, s.status.busy = true → ∃ t, complete s = .next t ∧ t.status.busy = false ∧ t.status.done = true ∧
    ((t.status.kind = 0 ∧ t.status.detail = 0 ∧ t.status.estk = s.status.estk) ∨
      (t.status.kind ≠ 0 ∧ t = failed s t.status.kind t.status.detail))

/-- R284, R288: every cause of every command, in the order of the checks, and ILLEGAL_COMMAND of a word that is none
before everything; where there is no cause the command succeeds. -/
def Obligations.ErrorsAreThoseOfTheCauseTable : Prop :=
  ∀ s : State,
    (∀ i, (∀ k d, causeOf i s = some (k, d) → exec i s = .next (failed s k d)) ∧
      (causeOf i s = none → ∃ t, exec i s = .next t ∧ t.status = (done s).status)) ∧
    (s.status.busy = true → illegal s.cmd = true → complete s = .next (failed s 1 0x05))

/-- R287: the commands that cannot fail, those that fail only by a host programming error, those that fail on data. -/
def Obligations.FailureClassesOfTheCommands : Prop :=
  ∀ (i : Instr) (s t : State), exec i s = .next t →
    (i ∈ [Instr.revb, .hash160, .viEnc] → t.status.kind = 0) ∧
    (i ∈ [Instr.wr16be, .wr16le, .wr32be, .wr32le, .wr64be, .wr64le, .rd16be, .rd16le, .rd32be, .rd32le, .rd64be, .rd64le,
        .revdw, .bitchk, .bitset, .bin2hex, .sha256, .sha256d, .sha256d2, .b58Enc, .b58cEnc] →
      t.status.kind = 0 ∨ t.status.kind = 1) ∧
    (i ∈ [Instr.hex2bin, .viDec, .b58Dec, .b58cDec] → t.status.kind = 0 ∨ t.status.kind = 2)

/-- The frame of every command: STATUS and its result places may change, nothing else does. -/
def Obligations.CommandsChangeOnlyTheirResultPlaces : Prop :=
  ∀ (i : Instr) (s t : State), exec i s = .next t → onlyResultsChanged i s t

/-- R16: a command's result is a function of its operands alone, and it leaves nothing but its named outputs and
STATUS. -/
def Obligations.ResultsDependOnOperandsAlone : Prop :=
  ∀ (i : Instr) (s u s' u' : State), agreeOnOperands i s u → exec i s = .next s' → exec i u = .next u' →
    onlyResultsChanged i s s' ∧
    s'.status.kind = u'.status.kind ∧ s'.status.detail = u'.status.detail ∧
    (i ∈ buf0Writers → s'.buf0 = u'.buf0) ∧
    (s'.status.kind = 0 →
      (i ∈ obufWriters → s'.obuf = u'.obuf) ∧ (i ∈ res0Writers → s'.res0 = u'.res0) ∧ (i = .viDec → s'.res1 = u'.res1))

/-- What clears ESTK, what changes RES0, RES1 and OLEN, and that nothing of the block's state survives a reset (R321). The
event of a step is read off the model's own schedule, log entry 2; that the parameters, the rest of the schedule and the
host's record survive a reset is the model's inference, log entry 11. -/
def Obligations.OnlyResetAndClearStickyClearTheStickyError : Prop :=
  ∀ s t : State, step s = .next t →
    (s.status.estk = true → t.status.estk = false →
      s.schedule.head? = some (.host .clearSticky) ∨ s.schedule.head? = some .reset) ∧
    (t.res0 ≠ s.res0 ∨ t.res1 ≠ s.res1 ∨ t.olen ≠ s.olen →
      s.schedule.head? = some .reset ∨
      (s.status.busy = true ∧ (s.schedule = [] ∨ s.schedule.head? = some .complete))) ∧
    (s.schedule.head? = some .reset →
      t = { State.reset with cfg := s.cfg, schedule := s.schedule.tail, hostReads := s.hostReads })

/-- KIND and DETAIL of a completed command stay until the next issue (or a reset), R292; the event of a step is read off
the model's own schedule, log entry 2. -/
def Obligations.ErrorCodesStayUntilTheNextIssue : Prop :=
  ∀ s t : State, step s = .next t → s.status.busy = false → s.schedule.head? ≠ some .reset →
    (∀ op, s.schedule.head? ≠ some (.host (.issue op))) →
    t.status.kind = s.status.kind ∧ t.status.detail = s.status.detail ∧ t.status.done = s.status.done

/-- Every command in flight completes: when the schedule has run out, one more step leaves the block idle (the model's
own bound, log entry 2). -/
def Obligations.EveryCommandInFlightCompletes : Prop :=
  ∀ s : State, ∃ t : State, Sys2Proof.core.run (s.schedule.length + 1) s = .next t ∧ t.schedule = [] ∧
    t.status.busy = false

/-- The reset state meets the invariant. -/
def Obligations.ResetMeetsTheMachineInvariant : Prop := State.Inv State.reset

/-- Every step keeps the invariant: parameters in range, buffers within their capacity, STATUS legal. -/
def Obligations.StepKeepsTheMachineInvariant : Prop :=
  ∀ s t : State, State.Inv s → step s = .next t → State.Inv t

/-- No command and no host operation changes a parameter (R30); that the state carries the parameters is the model's
choice, log entry 1. -/
def Obligations.ParametersNeverChange : Prop := ∀ s t : State, step s = .next t → t.cfg = s.cfg

/-- A step of one instance is a step of its own state and cannot affect another instance (R304); instances as a list are
the model's choice, log entry 8. -/
def Obligations.InstancesShareNothing : Prop :=
  ∀ (k : Nat) (xs : Instances), ∃ ys, stepInstance k xs = .next ys ∧ ys.length = xs.length ∧
    (∀ j, j ≠ k → ys[j]? = xs[j]?) ∧
    (∀ s, xs[k]? = some s → ∃ t, step s = .next t ∧ ys[k]? = some t)

/-! ### BYTEORDER -/

/-- R120 to R126: the six WR commands. -/
def Obligations.WriteCommandsStoreTheLowBytes : Prop :=
  ∀ r ∈ wrRows, ∀ s : State,
    decodeWord r.word = .ok r.instr ∧
    (s.arg1.toNat + r.width > s.len0 → exec r.instr s = .next (failed s 1 0x01)) ∧
    (s.arg1.toNat + r.width ≤ s.len0 → ∃ b, exec r.instr s = .next (done (withBuf0 s b)) ∧ b.length = s.len0 ∧
      (∀ j < r.width, b[s.arg1.toNat + j]? = some (s.arg0.extractLsb' (8 * r.place j) 8)) ∧
      (∀ a, a < s.arg1.toNat ∨ s.arg1.toNat + r.width ≤ a → b[a]? = s.buf0[a]?))

/-- R133, R127 to R132: the six RD commands. -/
def Obligations.ReadCommandsLoadTheBytes : Prop :=
  ∀ r ∈ rdRows, ∀ s : State,
    decodeWord r.word = .ok r.instr ∧
    (s.arg1.toNat + r.width > s.len0 → exec r.instr s = .next (failed s 1 0x01)) ∧
    (s.arg1.toNat + r.width ≤ s.len0 → ∃ v : Word, exec r.instr s = .next (done { s with res0 := v }) ∧
      v.toNat < 2 ^ (8 * r.width) ∧
      (∀ j < r.width, s.buf0[s.arg1.toNat + j]? = some (v.extractLsb' (8 * r.place j) 8)))

/-- R134: read after write, write after read, and the two orders as each other's reversal. -/
def Obligations.ReadsAndWritesAreInverse : Prop :=
  (∀ p ∈ pairRows, ∀ s : State, s.arg1.toNat + p.2.2 ≤ s.len0 →
    (∃ t u, exec p.1 s = .next t ∧ exec p.2.1 t = .next u ∧ u.res0.toNat = s.arg0.toNat % 2 ^ (8 * p.2.2)) ∧
    (∃ t u, exec p.2.1 s = .next t ∧ exec p.1 { t with arg0 := t.res0 } = .next u ∧ u.buf0 = s.buf0)) ∧
  (∀ p ∈ orderRows, ∀ s : State, s.arg1.toNat + p.2.2 ≤ s.len0 →
    ∃ t t' u, exec p.1 s = .next t ∧ exec p.2.1 s = .next t' ∧
      exec .revb (withBuf0 t ((t.buf0.drop s.arg1.toNat).take p.2.2)) = .next u ∧
      u.obuf = (t'.buf0.drop s.arg1.toNat).take p.2.2)

/-! ### BYTEARRAY -/

/-- R156. -/
def Obligations.RevbReversesTheBuffer : Prop :=
  ∀ s : State, decodeWord 0x20#8 = .ok .revb ∧
    ∃ out, exec .revb s = .next (done (withObuf s out)) ∧ out.length = s.len0 ∧
      ∀ i < s.len0, out[i]? = s.buf0[s.len0 - 1 - i]?

/-- R157, with the order of its two checks. -/
def Obligations.RevdwReversesEachGroup : Prop :=
  ∀ s : State, decodeWord 0x21#8 = .ok .revdw ∧
    (s.len0 % 4 ≠ 0 → exec .revdw s = .next (failed s 1 0x02)) ∧
    (s.len0 % 4 = 0 → 0 ≤ s.arg0.toInt → s.arg0.toInt % 4 ≠ 0 → exec .revdw s = .next (failed s 1 0x03)) ∧
    (s.len0 % 4 = 0 → s.arg0.toInt < 0 ∨ s.arg0.toInt % 4 = 0 →
      ∃ out, exec .revdw s = .next (done (withObuf s out)) ∧
        (s.arg0.toInt < 0 → out.length = s.len0) ∧
        (0 ≤ s.arg0.toInt → (out.length : Int) = min (s.len0 : Int) s.arg0.toInt) ∧
        ∀ i < out.length, out[i]? = s.buf0[4 * (i / 4) + 3 - i % 4]?)

/-- R158: the dword swap without a trim is its own inverse. -/
def Obligations.RevdwTwiceIsTheIdentity : Prop :=
  ∀ s : State, s.len0 % 4 = 0 → s.arg0.toInt < 0 →
    ∃ t u, exec .revdw s = .next t ∧ exec .revdw (withBuf0 t t.obuf) = .next u ∧ u.status.kind = 0 ∧ u.obuf = s.buf0

/-- R159. -/
def Obligations.BitchkReadsOneBit : Prop :=
  ∀ s : State, decodeWord 0x22#8 = .ok .bitchk ∧
    (s.arg1.toNat / 8 ≥ s.len0 → exec .bitchk s = .next (failed s 1 0x01)) ∧
    (∀ x, s.buf0[s.arg1.toNat / 8]? = some x →
      exec .bitchk s = .next (done { s with res0 := if x.getLsbD (s.arg1.toNat % 8) then 1 else 0 }))

/-- R160: one bit of one byte. -/
def Obligations.BitsetSetsOneBit : Prop :=
  ∀ s : State, decodeWord 0x23#8 = .ok .bitset ∧
    (s.arg1.toNat / 8 ≥ s.len0 → exec .bitset s = .next (failed s 1 0x01)) ∧
    (∀ x, s.buf0[s.arg1.toNat / 8]? = some x →
      ∃ b y, exec .bitset s = .next (done (withBuf0 s b)) ∧ b.length = s.len0 ∧ b[s.arg1.toNat / 8]? = some y ∧
        (∀ k < 8, y.getLsbD k = (x.getLsbD k || k == s.arg1.toNat % 8)) ∧
        (∀ a, a ≠ s.arg1.toNat / 8 → b[a]? = s.buf0[a]?))

/-- After BITSET of an index BITCHK of it gives 1, and BITCHK of any other index what it gave before. -/
def Obligations.BitchkAfterBitset : Prop :=
  ∀ (s : State) (j : Word), s.arg1.toNat / 8 < s.len0 → j.toNat / 8 < s.len0 →
    ∃ t u v, exec .bitset s = .next t ∧ exec .bitchk { t with arg1 := j } = .next u ∧
      exec .bitchk { s with arg1 := j } = .next v ∧ u.res0 = if j = s.arg1 then 1 else v.res0

/-- R161, with the order of its two checks. -/
def Obligations.Hex2binReadsPairsOfDigits : Prop :=
  ∀ s : State, decodeWord 0x24#8 = .ok .hex2bin ∧
    (s.len0 % 2 = 1 → exec .hex2bin s = .next (failed s 2 0x10)) ∧
    (s.len0 % 2 = 0 → (∃ c ∈ s.buf0, hexDigit s.cfg.hexUpperOk c = none) → exec .hex2bin s = .next (failed s 2 0x11)) ∧
    (s.len0 % 2 = 0 → (∀ c ∈ s.buf0, hexDigit s.cfg.hexUpperOk c ≠ none) →
      ∃ out, exec .hex2bin s = .next (done (withObuf s out)) ∧ 2 * out.length = s.len0 ∧
        ∀ i < out.length, ∀ hi lo vh vl, s.buf0[2 * i]? = some hi → s.buf0[2 * i + 1]? = some lo →
          hexDigit s.cfg.hexUpperOk hi = some vh → hexDigit s.cfg.hexUpperOk lo = some vl →
          out[i]? = some (BitVec.ofNat 8 (16 * vh + vl)))

/-- R162. -/
def Obligations.Bin2hexWritesTwoDigitsPerByte : Prop :=
  ∀ s : State, decodeWord 0x25#8 = .ok .bin2hex ∧
    (2 * s.len0 > s.cfg.bufCap → exec .bin2hex s = .next (failed s 1 0x04)) ∧
    (2 * s.len0 ≤ s.cfg.bufCap →
      ∃ out, exec .bin2hex s = .next (done (withObuf s out)) ∧ out.length = 2 * s.len0 ∧
        ∀ i x, s.buf0[i]? = some x →
          out[2 * i]? = hexDigits[x.toNat / 16]? ∧ out[2 * i + 1]? = hexDigits[x.toNat % 16]?)

/-- R163: hex text is lossless both ways, upper-case digits coming back in lower case. -/
def Obligations.HexRoundTrips : Prop :=
  (∀ s : State, 2 * s.len0 ≤ s.cfg.bufCap →
    ∃ t u, exec .bin2hex s = .next t ∧ exec .hex2bin (withBuf0 t t.obuf) = .next u ∧ u.status.kind = 0 ∧
      u.obuf = s.buf0) ∧
  (∀ s t : State, s.len0 ≤ s.cfg.bufCap → exec .hex2bin s = .next t → t.status.kind = 0 →
    ∃ u, exec .bin2hex (withBuf0 t t.obuf) = .next u ∧ u.status.kind = 0 ∧ u.obuf = s.buf0.map lowerHex ∧
      ((∀ c ∈ s.buf0, c ∉ text "ABCDEF") → u.obuf = s.buf0))

/-! ### HASH -/

/-- R186, R187: the single and the double digest of a range of BUF0. -/
def Obligations.DigestCommandsHashTheRange : Prop :=
  ∀ s : State, decodeWord 0x30#8 = .ok .sha256 ∧ decodeWord 0x31#8 = .ok .sha256d ∧
    (s.arg1.toNat + s.arg2.toNat > s.len0 →
      exec .sha256 s = .next (failed s 1 0x01) ∧ exec .sha256d s = .next (failed s 1 0x01)) ∧
    (s.arg1.toNat + s.arg2.toNat ≤ s.len0 → ∃ m : Bytes, m.length = s.arg2.toNat ∧
      (∀ j < m.length, m[j]? = s.buf0[s.arg1.toNat + j]?) ∧
      exec .sha256 s = .next (done (withObuf s (sha256Digest m))) ∧
      exec .sha256d s = .next (done (withObuf s (sha256Digest (sha256Digest m)))) ∧
      (sha256Digest m).length = 32 ∧ (sha256Digest (sha256Digest m)).length = 32)

/-- The double digest of two ranges, the one of BUF0 first (R188). That it equals SHA256D over one buffer that holds the
same bytes is an inference the spec marks as its own, from R187 and R188. -/
def Obligations.Sha256d2HashesTheConcatenation : Prop :=
  ∀ s : State, decodeWord 0x32#8 = .ok .sha256d2 ∧
    (s.arg1.toNat + s.arg2.toNat > s.len0 ∨ s.arg3.toNat + s.arg4.toNat > s.len1 →
      exec .sha256d2 s = .next (failed s 1 0x01)) ∧
    (s.arg1.toNat + s.arg2.toNat ≤ s.len0 → s.arg3.toNat + s.arg4.toNat ≤ s.len1 → ∃ m : Bytes,
      m.length = s.arg2.toNat + s.arg4.toNat ∧ (∀ j < s.arg2.toNat, m[j]? = s.buf0[s.arg1.toNat + j]?) ∧
      (∀ j < s.arg4.toNat, m[s.arg2.toNat + j]? = s.buf1[s.arg3.toNat + j]?) ∧
      exec .sha256d2 s = .next (done (withObuf s (sha256Digest (sha256Digest m)))) ∧
      (sha256Digest (sha256Digest m)).length = 32 ∧
      ∀ u : State, u.buf0 = m → u.arg1 = 0 → u.arg2.toNat = m.length →
        ∃ v, exec .sha256d u = .next v ∧ v.status.kind = 0 ∧ v.obuf = sha256Digest (sha256Digest m))

/-- R189. -/
def Obligations.Hash160HashesTheWholeBuffer : Prop :=
  ∀ s : State, decodeWord 0x33#8 = .ok .hash160 ∧
    exec .hash160 s = .next (done (withObuf s (rmd160Digest (sha256Digest s.buf0)))) ∧
    (rmd160Digest (sha256Digest s.buf0)).length = 20

/-- The padding of both digests, with the least number of zero bytes, and the length field big-endian in one and
little-endian in the other. The algorithms of both digests are the spec's own, from general knowledge (log entry 9). -/
def Obligations.PaddingFillsWholeBlocks : Prop :=
  ∀ m : Bytes, m.length < 2 ^ 61 → ∃ z, (m.length + 1 + z + 8) % 64 = 0 ∧
    (∀ z' < z, (m.length + 1 + z' + 8) % 64 ≠ 0) ∧
    ∃ e : BitVec 64, e.toNat = 8 * m.length ∧
      pad256 m = m ++ 0x80#8 :: List.replicate z 0#8 ++ (List.range 8).map (fun i => e.extractLsb' (8 * (7 - i)) 8) ∧
      pad160 m = m ++ 0x80#8 :: List.replicate z 0#8 ++ (List.range 8).map (fun i => e.extractLsb' (8 * i) 8)

/-- A block by the recurrences over the round index, the spec's own (log entry 9); the model's fold computes them. -/
def Obligations.Sha256BlockFollowsTheRecurrences : Prop :=
  ∀ (h : Sha256Regs) (b : Bytes) (W : Nat → W32) (V : Nat → Sha256Regs), b.length = 64 → Sha256Trace h b W V →
    shaBlock h b =
      ⟨h.a + (V 64).a, h.b + (V 64).b, h.c + (V 64).c, h.d + (V 64).d,
       h.e + (V 64).e, h.f + (V 64).f, h.g + (V 64).g, h.h + (V 64).h⟩

/-- The digest is the last of the chaining values of the padded message's blocks, its words big-endian; the algorithm is
the spec's own (log entry 9). -/
def Obligations.Sha256ChainsTheBlocks : Prop :=
  ∀ (m : Bytes) (H : Nat → Sha256Regs), H 0 = shaInit →
    (∀ i, H (i + 1) = shaBlock (H i) (((pad256 m).drop (64 * i)).take 64)) →
    ∃ r : Sha256Regs, r = H ((pad256 m).length / 64) ∧ (sha256Digest m).length = 32 ∧
      ∀ j < 8, ∃ x, [r.a, r.b, r.c, r.d, r.e, r.f, r.g, r.h][j]? = some x ∧
        ∀ k < 4, (sha256Digest m)[4 * j + k]? = some (x.extractLsb' (8 * (3 - k)) 8)

/-- A block of RIPEMD-160 by the recurrences of its two lines, joined crosswise; the algorithm is the spec's own (log
entry 9). -/
def Obligations.Ripemd160BlockFollowsTheRecurrences : Prop :=
  ∀ (h : RmdRegs) (b : Bytes) (X : Nat → W32) (L R : Nat → RmdRegs), b.length = 64 →
    (∀ i < 16, (X i).toNat = bigEndian ((b.drop (4 * i)).take 4).reverse) →
    RmdTrace h L (fun j => j) (fun j => X (rmdRL.getD j 0)) (fun j => rmdKL.getD (j / 16) 0) (fun j => rmdSL.getD j 0) →
    RmdTrace h R (fun j => 79 - j) (fun j => X (rmdRR.getD j 0)) (fun j => rmdKR.getD (j / 16) 0)
      (fun j => rmdSR.getD j 0) →
    rmdBlock h b =
      ⟨h.b + (L 80).c + (R 80).d, h.c + (L 80).d + (R 80).e, h.d + (L 80).e + (R 80).a,
       h.e + (L 80).a + (R 80).b, h.a + (L 80).b + (R 80).c⟩

/-- The RIPEMD-160 digest is the last of the chaining values of the padded message's blocks, its words little-endian; the
algorithm is the spec's own (log entry 9). -/
def Obligations.Ripemd160ChainsTheBlocks : Prop :=
  ∀ (m : Bytes) (H : Nat → RmdRegs), H 0 = rmdInit →
    (∀ i, H (i + 1) = rmdBlock (H i) (((pad160 m).drop (64 * i)).take 64)) →
    ∃ r : RmdRegs, r = H ((pad160 m).length / 64) ∧ (rmd160Digest m).length = 20 ∧
      ∀ j < 5, ∃ x, [r.a, r.b, r.c, r.d, r.e][j]? = some x ∧
        ∀ k < 4, (rmd160Digest m)[4 * j + k]? = some (x.extractLsb' (8 * k) 8)

/-! ### VARINT -/

/-- R211, R213: the form is the shortest that holds the value. -/
def Obligations.ViEncChoosesTheShortestForm : Prop :=
  ∀ s : State, decodeWord 0x40#8 = .ok .viEnc ∧ ∃ out, exec .viEnc s = .next (done (withObuf s out)) ∧
    (s.arg0.toNat < 0xFD → out = [s.arg0.extractLsb' 0 8]) ∧
    (0xFD ≤ s.arg0.toNat → s.arg0.toNat ≤ 0xFFFF →
      out = 0xFD#8 :: (List.range 2).map fun i => s.arg0.extractLsb' (8 * i) 8) ∧
    (0x10000 ≤ s.arg0.toNat → s.arg0.toNat ≤ 0xFFFFFFFF →
      out = 0xFE#8 :: (List.range 4).map fun i => s.arg0.extractLsb' (8 * i) 8) ∧
    (0x100000000 ≤ s.arg0.toNat → out = 0xFF#8 :: (List.range 8).map fun i => s.arg0.extractLsb' (8 * i) 8)

/-- R212, R210, R214, R215: the first byte decides the length; a shorter buffer is rejected, more bytes are ignored, no
form is refused for being longer than needed. -/
def Obligations.ViDecReadsTheImpliedForm : Prop :=
  ∀ s : State, decodeWord 0x41#8 = .ok .viDec ∧
    (s.buf0 = [] → exec .viDec s = .next (failed s 2 0x12)) ∧
    (∀ p, s.buf0[0]? = some p →
      (s.len0 < impliedLength p → exec .viDec s = .next (failed s 2 0x12)) ∧
      (impliedLength p ≤ s.len0 → ∃ v : Word,
        exec .viDec s = .next (done { s with res0 := v, res1 := BitVec.ofNat 64 (impliedLength p) }) ∧
        (impliedLength p = 1 → v.toNat = p.toNat) ∧
        (1 < impliedLength p → v.toNat < 2 ^ (8 * (impliedLength p - 1)) ∧
          ∀ j < impliedLength p - 1, s.buf0[1 + j]? = some (v.extractLsb' (8 * j) 8))))

/-- R216: decoding what was encoded, alone or followed by any bytes, gives the value and the encoded length. -/
def Obligations.VarIntRoundTrips : Prop :=
  ∀ (s : State) (rest : Bytes), ∃ t u, exec .viEnc s = .next t ∧
    exec .viDec (withBuf0 t (t.obuf ++ rest)) = .next u ∧ u.status.kind = 0 ∧ u.res0 = s.arg0 ∧
    u.res1.toNat = t.olen ∧
    t.olen = (if s.arg0.toNat < 0xFD then 1 else if s.arg0.toNat ≤ 0xFFFF then 3
      else if s.arg0.toNat ≤ 0xFFFFFFFF then 5 else 9)

/-! ### B58 -/

/-- R232: the text is one `1` per leading zero byte and then the base-58 digits of the number, the most significant
first and not 0, at most 1.366 of them per byte that is not a leading zero; CAPACITY when it does not fit. -/
def Obligations.B58EncWritesTheDigits : Prop :=
  ∀ s : State, decodeWord 0x50#8 = .ok .b58Enc ∧ ∃ (ds : List Nat) (out : Bytes),
    (∀ d ∈ ds, d < 58) ∧ ds.getLast? ≠ some 0 ∧ sumDigits 58 ds = bigEndian s.buf0 ∧
    1000 * ds.length < 1366 * (s.len0 - leading 0x00#8 s.buf0) + 1000 ∧
    out = List.replicate (leading 0x00#8 s.buf0) 0x31#8 ++ (ds.map fun d => alphabet.getD d 0).reverse ∧
    (out.length > s.cfg.bufCap → exec .b58Enc s = .next (failed s 1 0x04)) ∧
    (out.length ≤ s.cfg.bufCap → exec .b58Enc s = .next (done (withObuf s out)))

/-- R233: one zero byte per leading `1` and then the shortest big-endian bytes of the number; one bad character rejects
the whole text. -/
def Obligations.B58DecReadsTheDigits : Prop :=
  ∀ s : State, decodeWord 0x51#8 = .ok .b58Dec ∧
    ((∃ c ∈ s.buf0, c ∉ alphabet) → exec .b58Dec s = .next (failed s 2 0x13)) ∧
    (∀ ds : List Nat, (∀ d ∈ ds, d < 58) → s.buf0 = (ds.map fun d => alphabet.getD d 0).reverse →
      ∃ body, bigEndian body = sumDigits 58 ds ∧ body.head? ≠ some 0 ∧
        leading 0x31#8 s.buf0 + body.length ≤ s.len0 ∧
        exec .b58Dec s = .next (done (withObuf s (List.replicate (leading 0x31#8 s.buf0) 0x00#8 ++ body))))

/-- R243: the two commands are inverse on byte sequences whose text fits and on texts over the alphabet. -/
def Obligations.Base58RoundTrips : Prop :=
  (∀ s t : State, exec .b58Enc s = .next t → t.status.kind = 0 →
    ∃ u, exec .b58Dec (withBuf0 t t.obuf) = .next u ∧ u.status.kind = 0 ∧ u.obuf = s.buf0) ∧
  (∀ s : State, (∀ c ∈ s.buf0, c ∈ alphabet) → s.len0 ≤ s.cfg.bufCap →
    ∃ t u, exec .b58Dec s = .next t ∧ t.status.kind = 0 ∧ exec .b58Enc (withBuf0 t t.obuf) = .next u ∧
      u.status.kind = 0 ∧ u.obuf = s.buf0)

/-- R244: as many leading `1` characters in the text as leading zero bytes in the input, four in the rule's instance. -/
def Obligations.LeadingZeroBytesBecomeLeadingOnes : Prop :=
  ∀ s t : State, exec .b58Enc s = .next t → t.status.kind = 0 → leading 0x31#8 t.obuf = leading 0x00#8 s.buf0

/-- R234: the Base58 text of the payload followed by the first four bytes of its double digest. -/
def Obligations.B58cEncEncodesPayloadAndChecksum : Prop :=
  ∀ s : State, decodeWord 0x52#8 = .ok .b58cEnc ∧ ∃ (ds : List Nat) (c out : Bytes),
    c = (sha256Digest (sha256Digest s.buf0)).take 4 ∧ c.length = 4 ∧
    (∀ d ∈ ds, d < 58) ∧ ds.getLast? ≠ some 0 ∧ sumDigits 58 ds = bigEndian (s.buf0 ++ c) ∧
    out = List.replicate (leading 0x00#8 (s.buf0 ++ c)) 0x31#8 ++ (ds.map fun d => alphabet.getD d 0).reverse ∧
    (out.length > s.cfg.bufCap → exec .b58cEnc s = .next (failed s 1 0x04)) ∧
    (out.length ≤ s.cfg.bufCap → exec .b58cEnc s = .next (done (withObuf s out)))

/-- R235, with the order of its three checks: what B58_DEC makes of the text, the checksum verified and taken off. -/
def Obligations.B58cDecVerifiesTheChecksum : Prop :=
  ∀ s : State, decodeWord 0x53#8 = .ok .b58cDec ∧
    ((∃ c ∈ s.buf0, c ∉ alphabet) → exec .b58cDec s = .next (failed s 2 0x13)) ∧
    (∀ d : Bytes, exec .b58Dec s = .next (done (withObuf s d)) →
      (d.length < 4 → exec .b58cDec s = .next (failed s 2 0x14)) ∧
      (∀ p c : Bytes, d = p ++ c → c.length = 4 →
        ((sha256Digest (sha256Digest p)).take 4 ≠ c → exec .b58cDec s = .next (failed s 2 0x15)) ∧
        ((sha256Digest (sha256Digest p)).take 4 = c → exec .b58cDec s = .next (done (withObuf s p)))))

/-- R245: decoding what B58C_ENC wrote gives back exactly the payload. -/
def Obligations.Base58CheckRoundTrips : Prop :=
  ∀ s t : State, exec .b58cEnc s = .next t → t.status.kind = 0 →
    ∃ u, exec .b58cDec (withBuf0 t t.obuf) = .next u ∧ u.status.kind = 0 ∧ u.obuf = s.buf0

/-! ### Host scripts -/

/-- The law of R105: parsing the address of a hash and a version gives back the version and the hash. That a script waits by
taking `complete` with nothing in between is the model's choice, log entry 12. -/
def Obligations.ParsedAddressIsTheOneBuilt : Prop :=
  ∀ (s : State) (hash : Bytes) (version : Int), s.status.busy = false → s.cfg.wf = true → hash.length = 20 →
    0 ≤ version → version ≤ 255 →
    ∃ t address u, toAddress hash version s = .next (t, .bytes address) ∧
      parseAddress address t = .next (u, .address (BitVec.ofNat 8 version.toNat) hash)

/-- Hex first, Base58Check second, no value when both fail; a failed command sets ESTK (R106, R336). That the script waits
by taking `complete` with nothing in between is the model's choice, log entry 12. -/
def Obligations.HexOrBase58TriesHexFirst : Prop :=
  ∀ (s : State) (data : Bytes), s.status.busy = false → data.length ≤ s.cfg.bufCap →
    (causeOf .hex2bin (withBuf0 s data) = none →
      ∃ t, parseHexOrB58 data s = .next (t, .bytes t.obuf) ∧ exec .hex2bin (issued (withBuf0 s data) 0x24) = .next t) ∧
    (causeOf .hex2bin (withBuf0 s data) ≠ none → causeOf .b58cDec (withBuf0 s data) = none →
      ∃ t, parseHexOrB58 data s = .next (t, .bytes t.obuf) ∧ t.status.estk = true ∧
        exec .b58cDec (issued (withBuf0 s data) 0x53) = .next { t with status := { t.status with estk := s.status.estk } }) ∧
    (causeOf .hex2bin (withBuf0 s data) ≠ none → causeOf .b58cDec (withBuf0 s data) ≠ none →
      ∃ t, parseHexOrB58 data s = .next (t, .noValue) ∧ t.status.estk = true ∧ t.obuf = s.obuf)
end

