-- ==== Sys2Proof/Laws/Bytes.lean ====
section
/-! SUPPORT. Integers and byte sequences, reading and writing a buffer, digits, and the pointwise map: what each operation
answers, said once. -/

namespace Sys2Proof.Machine

/-! ### Integers and bytes -/

@[simp] theorem length_beBytes (n v : Nat) : (beBytes n v).length = n := by simp [beBytes]

@[simp] theorem length_leBytes (n v : Nat) : (leBytes n v).length = n := by simp [leBytes]

theorem getElem?_leBytes (n v i : Nat) (h : i < n) : (leBytes n v)[i]? = some (byteOf (v >>> (8 * i))) := by
  simp [leBytes, h]

theorem getElem?_beBytes (n v i : Nat) (h : i < n) :
    (beBytes n v)[i]? = some (byteOf (v >>> (8 * (n - 1 - i)))) := by
  simp [beBytes, h]

/-- The two byte orders are each other's reverse (R134 (c)). -/
theorem beBytes_eq_reverse (n v : Nat) : beBytes n v = (leBytes n v).reverse := by
  apply List.ext_getElem?
  intro i
  by_cases h : i < n
  · rw [getElem?_beBytes n v i h, List.getElem?_reverse (by simpa using h), getElem?_leBytes _ _ _ (by simp; omega)]
    simp
  · rw [List.getElem?_eq_none (by simpa using h), List.getElem?_eq_none (by simpa using h)]

theorem leBytes_zero (v : Nat) : leBytes 0 v = [] := rfl

theorem leBytes_succ (n v : Nat) : leBytes (n + 1) v = byteOf v :: leBytes n (v / 256) := by
  simp only [leBytes, List.range_succ_eq_map, List.map_cons, List.map_map]
  congr 1
  apply List.map_congr_left
  intro i _
  simp only [Function.comp, Nat.succ_eq_add_one]
  rw [show 8 * (i + 1) = 8 + 8 * i by omega, Nat.shiftRight_add, Nat.shiftRight_eq_div_pow v 8]

@[simp] theorem toNat_byteOf (v : Nat) : (byteOf v).toNat = v % 256 := by simp [byteOf]

@[simp] theorem byteOf_toNat (b : Byte) : byteOf b.toNat = b := by simp [byteOf]

/-- Reading back what was written: only the low `8n` bits of the value. -/
theorem fromLE_leBytes (n v : Nat) : fromLE (leBytes n v) = v % 256 ^ n := by
  induction n generalizing v with
  | zero => simp [leBytes_zero, fromLE, Nat.mod_one]
  | succ n ih =>
    rw [leBytes_succ, fromLE, ih, toNat_byteOf, Nat.pow_succ', Nat.mod_mul]

theorem fromLE_append (a b : Bytes) : fromLE (a ++ b) = fromLE a + 256 ^ a.length * fromLE b := by
  induction a with
  | nil => simp [fromLE]
  | cons x a ih => simp only [List.cons_append, fromLE, ih, List.length_cons, Nat.pow_succ']; ring

theorem fromLE_lt (b : Bytes) : fromLE b < 256 ^ b.length := by
  induction b with
  | nil => simp [fromLE]
  | cons x b ih =>
    have hx := x.isLt
    simp only [fromLE, List.length_cons, Nat.pow_succ']
    omega

theorem fromBE_eq_fromLE_reverse (b : Bytes) : fromBE b = fromLE b.reverse := by
  have key : ∀ (b : Bytes) (acc : Nat),
      b.foldl (fun acc x => acc * 256 + x.toNat) acc = acc * 256 ^ b.length + fromLE b.reverse := by
    intro b
    induction b with
    | nil => intro acc; simp [fromLE]
    | cons x b ih =>
      intro acc
      rw [List.foldl_cons, ih, List.reverse_cons, fromLE_append]
      simp only [List.length_reverse, List.length_cons, Nat.pow_succ', fromLE]
      ring
  simpa [fromBE] using key b 0

theorem fromBE_lt (b : Bytes) : fromBE b < 256 ^ b.length := by
  simpa [fromBE_eq_fromLE_reverse] using fromLE_lt b.reverse

/-- Reading back what was written, big-endian. -/
theorem fromBE_beBytes (n v : Nat) : fromBE (beBytes n v) = v % 256 ^ n := by
  rw [beBytes_eq_reverse, fromBE_eq_fromLE_reverse, List.reverse_reverse, fromLE_leBytes]

/-- The bytes of an integer read from bytes are those bytes. -/
theorem leBytes_fromLE (b : Bytes) : leBytes b.length (fromLE b) = b := by
  induction b with
  | nil => rfl
  | cons x b ih =>
    have hx := x.isLt
    rw [List.length_cons, leBytes_succ, fromLE]
    have h1 : (x.toNat + 256 * fromLE b) / 256 = fromLE b := by omega
    have h2 : byteOf (x.toNat + 256 * fromLE b) = x := by
      apply BitVec.eq_of_toNat_eq
      rw [toNat_byteOf]
      omega
    rw [h1, h2, ih]

theorem beBytes_fromBE (b : Bytes) : beBytes b.length (fromBE b) = b := by
  rw [beBytes_eq_reverse, fromBE_eq_fromLE_reverse]
  have := leBytes_fromLE b.reverse
  rw [List.length_reverse] at this
  rw [this, List.reverse_reverse]

/-- An integer and its low `8n` bits have the same `n` bytes. -/
theorem leBytes_mod (n v : Nat) : leBytes n (v % 256 ^ n) = leBytes n v := by
  have := leBytes_fromLE (leBytes n v)
  rwa [length_leBytes, fromLE_leBytes] at this

theorem beBytes_mod (n v : Nat) : beBytes n (v % 256 ^ n) = beBytes n v := by
  rw [beBytes_eq_reverse, leBytes_mod, ← beBytes_eq_reverse]

/-! ### Buffers -/

@[simp] theorem length_memRead (b : Bytes) (off n : Nat) (h : off + n ≤ b.length) : (memRead b off n).length = n := by
  simp [memRead]; omega

theorem getElem?_memRead (b : Bytes) (off n i : Nat) (h : i < n) : (memRead b off n)[i]? = b[off + i]? := by
  simp [memRead, h]

/-- A write keeps the length of the buffer: no command changes LEN0 (R23). -/
theorem length_memWrite (b : Bytes) (off : Nat) (src : Bytes) (h : off + src.length ≤ b.length) :
    (memWrite b off src).length = b.length := by
  simp [memWrite]; omega

theorem getElem?_memWrite_inside (b : Bytes) (off : Nat) (src : Bytes) (i : Nat) (h : off + src.length ≤ b.length)
    (hi : i < src.length) : (memWrite b off src)[off + i]? = src[i]? := by
  have h1 : (b.take off).length = off := by simp; omega
  rw [memWrite, List.append_assoc, List.getElem?_append_right (by omega), h1]
  rw [show off + i - off = i by omega, List.getElem?_append_left hi]

/-- Every byte outside the stored ones is the old one. -/
theorem getElem?_memWrite_outside (b : Bytes) (off : Nat) (src : Bytes) (a : Nat) (h : off + src.length ≤ b.length)
    (ha : a < off ∨ off + src.length ≤ a) : (memWrite b off src)[a]? = b[a]? := by
  have h1 : (b.take off).length = off := by simp; omega
  rw [memWrite, List.append_assoc]
  rcases ha with ha | ha
  · rw [List.getElem?_append_left (by omega), List.getElem?_take, if_pos ha]
  · rw [List.getElem?_append_right (by omega), h1, List.getElem?_append_right (by omega), List.getElem?_drop]
    congr 1; omega

/-- Reading back what was written. -/
theorem memRead_memWrite (b : Bytes) (off : Nat) (src : Bytes) (h : off + src.length ≤ b.length) :
    memRead (memWrite b off src) off src.length = src := by
  have h1 : (b.take off).length = off := by simp; omega
  rw [memRead, memWrite, List.append_assoc, List.drop_append_of_le_length (by omega)]
  simp

/-- Writing back what was read changes nothing. -/
theorem memWrite_memRead (b : Bytes) (off n : Nat) (h : off + n ≤ b.length) :
    memWrite b off (memRead b off n) = b := by
  rw [memWrite, length_memRead b off n h, memRead, ← List.drop_drop, List.append_assoc, List.take_append_drop,
    List.take_append_drop]

/-! ### Every element has a value -/

theorem mapAll_eq_some {α β : Type} (f : α → Option β) (xs : List α) (ys : List β) :
    mapAll f xs = some ys ↔ xs.map f = ys.map some := by
  induction xs generalizing ys with
  | nil => cases ys <;> simp [mapAll]
  | cons x xs ih =>
    rw [mapAll]
    split
    · rename_i y zs hx hzs
      have := (ih zs).1 hzs
      constructor
      · rintro ⟨⟩; simp [hx, this]
      · intro h
        cases ys with
        | nil => simp at h
        | cons w ws =>
          simp only [List.map_cons, List.cons.injEq] at h
          have h2 := (ih ws).2 h.2
          rw [hzs] at h2
          cases h2
          rw [hx] at h
          cases h.1
          rfl
    · rename_i hn
      constructor
      · intro h; cases h
      · intro h
        cases ys with
        | nil => simp at h
        | cons w ws =>
          simp only [List.map_cons, List.cons.injEq] at h
          exact (hn w ws h.1 ((ih ws).2 h.2)).elim

theorem mapAll_eq_none {α β : Type} (f : α → Option β) (xs : List α) :
    mapAll f xs = none ↔ ∃ x ∈ xs, f x = none := by
  induction xs with
  | nil => simp [mapAll]
  | cons x xs ih =>
    rw [mapAll]
    split
    · rename_i y zs hx hzs
      simp only [List.mem_cons, exists_eq_or_imp, hx, reduceCtorEq, false_or, false_iff]
      rw [← ih, hzs]
      simp
    · rename_i hn
      simp only [List.mem_cons, exists_eq_or_imp, true_iff]
      cases hx : f x with
      | none => exact .inl rfl
      | some y =>
        right
        rw [← ih]
        cases hm : mapAll f xs with
        | none => rfl
        | some zs => exact (hn y zs hx hm).elim

theorem length_mapAll {α β : Type} {f : α → Option β} {xs : List α} {ys : List β} (h : mapAll f xs = some ys) :
    ys.length = xs.length := by
  simpa using (congrArg List.length ((mapAll_eq_some f xs ys).1 h)).symm

/-! ### Digits -/

/-- The value of digits in base `base`, least significant first. -/
def ofDigitsLE (base : Nat) : List Nat → Nat
  | [] => 0
  | d :: rest => d + base * ofDigitsLE base rest

theorem digitsLE_lt (base : Nat) (hb : 0 < base) (fuel n : Nat) : ∀ d ∈ digitsLE base fuel n, d < base := by
  induction fuel generalizing n with
  | zero => simp [digitsLE]
  | succ fuel ih =>
    rw [digitsLE]
    split
    · simp
    · intro d hd
      rcases List.mem_cons.1 hd with rfl | hd
      · exact Nat.mod_lt _ hb
      · exact ih _ d hd

theorem length_digitsLE_le (base fuel n : Nat) : (digitsLE base fuel n).length ≤ fuel := by
  induction fuel generalizing n with
  | zero => simp [digitsLE]
  | succ fuel ih =>
    rw [digitsLE]
    split
    · simp
    · simpa using ih (n / base)

/-- With fuel enough the digits are those of the number. -/
theorem ofDigitsLE_digitsLE (base fuel n : Nat) (h : n < base ^ fuel) : ofDigitsLE base (digitsLE base fuel n) = n := by
  induction fuel generalizing n with
  | zero =>
    rw [Nat.pow_zero] at h
    simp only [digitsLE, ofDigitsLE]; omega
  | succ fuel ih =>
    rw [digitsLE]
    split
    · rename_i h0; simp [ofDigitsLE, h0]
    · rw [ofDigitsLE, ih _ (Nat.div_lt_of_lt_mul (by rwa [Nat.pow_succ'] at h)), Nat.mod_add_div]

/-- The most significant digit is not 0. -/
theorem digitsLE_getLast?_ne_zero (base fuel n : Nat) (h : n < base ^ fuel) :
    (digitsLE base fuel n).getLast? ≠ some 0 := by
  induction fuel generalizing n with
  | zero => simp [digitsLE]
  | succ fuel ih =>
    rw [digitsLE]
    split
    · simp
    · rename_i h0
      have hlt : n / base < base ^ fuel := Nat.div_lt_of_lt_mul (by rwa [Nat.pow_succ'] at h)
      cases hd : digitsLE base fuel (n / base) with
      | nil =>
        have h1 := ofDigitsLE_digitsLE base fuel (n / base) hlt
        rw [hd] at h1
        have h2 := Nat.mod_add_div n base
        simp only [ofDigitsLE] at h1
        rw [← h1] at h2
        simp; omega
      | cons d ds =>
        rw [List.getLast?_cons_cons, ← hd]
        exact ih _ hlt

theorem ofDigitsLE_lt (base : Nat) (ds : List Nat) (h : ∀ d ∈ ds, d < base) : ofDigitsLE base ds < base ^ ds.length := by
  induction ds with
  | nil => simp [ofDigitsLE]
  | cons d ds ih =>
    have h1 := h d (by simp)
    have h2 := ih fun x hx => h x (by simp [hx])
    have h3 : base * (ofDigitsLE base ds + 1) ≤ base * base ^ ds.length := Nat.mul_le_mul_left _ h2
    simp only [ofDigitsLE, List.length_cons, Nat.pow_succ']
    rw [Nat.mul_add] at h3
    omega

/-- Digits without a leading 0 are the digits of their value. -/
theorem digitsLE_ofDigitsLE (base fuel : Nat) (ds : List Nat) (hlt : ∀ d ∈ ds, d < base)
    (hlast : ds.getLast? ≠ some 0) (hf : ds.length ≤ fuel) : digitsLE base fuel (ofDigitsLE base ds) = ds := by
  induction ds generalizing fuel with
  | nil => cases fuel <;> simp [digitsLE, ofDigitsLE]
  | cons d ds ih =>
    have hd := hlt d (by simp)
    cases fuel with
    | zero => simp at hf
    | succ fuel =>
      have hl : ds.getLast? ≠ some 0 := by
        cases ds with
        | nil => simp
        | cons e es => rwa [List.getLast?_cons_cons] at hlast
      have ih' := ih fuel (fun x hx => hlt x (by simp [hx])) hl (by simpa using hf)
      have h0 : ofDigitsLE base (d :: ds) ≠ 0 := by
        intro h
        simp only [ofDigitsLE, Nat.add_eq_zero_iff, Nat.mul_eq_zero] at h
        obtain ⟨rfl, hb | hz⟩ := h
        · omega
        · rw [hz] at ih'
          have : ds = [] := by rw [← ih']; cases fuel <;> simp [digitsLE]
          subst this; simp at hlast
      rw [digitsLE, if_neg h0, ofDigitsLE]
      have h1 : (d + base * ofDigitsLE base ds) % base = d := by
        rw [Nat.add_mul_mod_self_left, Nat.mod_eq_of_lt hd]
      have h2 : (d + base * ofDigitsLE base ds) / base = ofDigitsLE base ds := by
        rw [Nat.add_mul_div_left _ _ (by omega), Nat.div_eq_of_lt hd, Nat.zero_add]
      rw [h1, h2, ih']

theorem ofDigitsLE_append (base : Nat) (a b : List Nat) :
    ofDigitsLE base (a ++ b) = ofDigitsLE base a + base ^ a.length * ofDigitsLE base b := by
  induction a with
  | nil => simp [ofDigitsLE]
  | cons d a ih => simp only [List.cons_append, ofDigitsLE, ih, List.length_cons, Nat.pow_succ']; ring

theorem fromDigits58_eq (ds : List Nat) : fromDigits58 ds = ofDigitsLE 58 ds.reverse := by
  have key : ∀ (ds : List Nat) (acc : Nat),
      ds.foldl (fun n d => n * 58 + d) acc = acc * 58 ^ ds.length + ofDigitsLE 58 ds.reverse := by
    intro ds
    induction ds with
    | nil => intro acc; simp [ofDigitsLE]
    | cons d ds ih =>
      intro acc
      rw [List.foldl_cons, ih, List.reverse_cons, ofDigitsLE_append]
      simp only [List.length_reverse, List.length_cons, Nat.pow_succ', ofDigitsLE]
      ring
  simpa [fromDigits58] using key ds 0

/-- The fuel of B58_ENC is enough: a byte is worth at most two base-58 digits. -/
theorem fromBE_lt_pow58 (b : Bytes) : fromBE b < 58 ^ (2 * b.length) :=
  calc fromBE b < 256 ^ b.length := fromBE_lt b
    _ ≤ (58 ^ 2) ^ b.length := Nat.pow_le_pow_left (by norm_num) _
    _ = 58 ^ (2 * b.length) := by rw [← Nat.pow_mul]

end Sys2Proof.Machine
end

