-- ==== Sys2Proof/Laws/Digest.lean ====
section
/-! SUPPORT. The lengths of the digests and of a padded message. -/

namespace Sys2Proof.Machine

@[simp] theorem length_sha256Digest (m : Bytes) : (sha256Digest m).length = 32 := by
  simp [sha256Digest, shaOutput]

@[simp] theorem length_doubleSha256 (m : Bytes) : (doubleSha256 m).length = 32 := by simp [doubleSha256]

@[simp] theorem length_rmd160Digest (m : Bytes) : (rmd160Digest m).length = 20 := by
  simp [rmd160Digest, rmdOutput]

@[simp] theorem length_hash160Digest (m : Bytes) : (hash160Digest m).length = 20 := by simp [hash160Digest]

@[simp] theorem length_checksum58 (p : Bytes) : (checksum58 p).length = 4 := by simp [checksum58]

/-- A padded message is whole 64-byte blocks (spec/42_hash.md R174). -/
theorem length_pad256_mod (m : Bytes) : (pad256 m).length % 64 = 0 := by
  simp [pad256, padZeros]; omega

/-- The padding of both digests has the same length (R184). -/
theorem length_pad160 (m : Bytes) : (pad160 m).length = (pad256 m).length := by simp [pad160, pad256]

@[simp] theorem length_pieces (size n : Nat) (b : Bytes) : (pieces size n b).length = n := by
  induction n generalizing b with
  | zero => rfl
  | succ n ih => simp [pieces, ih]

/-- Piece `i` is the `size` bytes from `size × i` on. -/
theorem getElem?_pieces (size n : Nat) (b : Bytes) (i : Nat) (h : i < n) :
    (pieces size n b)[i]? = some ((b.drop (size * i)).take size) := by
  induction n generalizing b i with
  | zero => omega
  | succ n ih =>
    cases i with
    | zero => simp [pieces]
    | succ i =>
      rw [pieces, List.getElem?_cons_succ, ih _ _ (by omega), List.drop_drop]
      congr 3
      rw [Nat.mul_succ]; omega

end Sys2Proof.Machine
end

