-- ==== Sys2Proof/Laws/State.lean ====
section
/-! SUPPORT. What each named update of the state does to each field: the field it writes has the new value, every other
field is the old one. Later proofs use these and unfold no record update. -/

namespace Sys2Proof.Machine

variable (s : State)

/-! ### setBuf0 -/

@[simp] theorem State.setBuf0_cfg (b : Bytes) : (s.setBuf0 b).cfg = s.cfg := rfl
@[simp] theorem State.setBuf0_cmd (b : Bytes) : (s.setBuf0 b).cmd = s.cmd := rfl
@[simp] theorem State.setBuf0_status (b : Bytes) : (s.setBuf0 b).status = s.status := rfl
@[simp] theorem State.setBuf0_arg0 (b : Bytes) : (s.setBuf0 b).arg0 = s.arg0 := rfl
@[simp] theorem State.setBuf0_arg1 (b : Bytes) : (s.setBuf0 b).arg1 = s.arg1 := rfl
@[simp] theorem State.setBuf0_arg2 (b : Bytes) : (s.setBuf0 b).arg2 = s.arg2 := rfl
@[simp] theorem State.setBuf0_arg3 (b : Bytes) : (s.setBuf0 b).arg3 = s.arg3 := rfl
@[simp] theorem State.setBuf0_arg4 (b : Bytes) : (s.setBuf0 b).arg4 = s.arg4 := rfl
@[simp] theorem State.setBuf0_res0 (b : Bytes) : (s.setBuf0 b).res0 = s.res0 := rfl
@[simp] theorem State.setBuf0_res1 (b : Bytes) : (s.setBuf0 b).res1 = s.res1 := rfl
@[simp] theorem State.setBuf0_mem (b : Bytes) : (s.setBuf0 b).mem = { s.mem with buf0 := b } := rfl
@[simp] theorem State.setBuf0_schedule (b : Bytes) : (s.setBuf0 b).schedule = s.schedule := rfl
@[simp] theorem State.setBuf0_hostReads (b : Bytes) : (s.setBuf0 b).hostReads = s.hostReads := rfl

/-! ### setBuf1 -/

@[simp] theorem State.setBuf1_cfg (b : Bytes) : (s.setBuf1 b).cfg = s.cfg := rfl
@[simp] theorem State.setBuf1_cmd (b : Bytes) : (s.setBuf1 b).cmd = s.cmd := rfl
@[simp] theorem State.setBuf1_status (b : Bytes) : (s.setBuf1 b).status = s.status := rfl
@[simp] theorem State.setBuf1_arg0 (b : Bytes) : (s.setBuf1 b).arg0 = s.arg0 := rfl
@[simp] theorem State.setBuf1_arg1 (b : Bytes) : (s.setBuf1 b).arg1 = s.arg1 := rfl
@[simp] theorem State.setBuf1_arg2 (b : Bytes) : (s.setBuf1 b).arg2 = s.arg2 := rfl
@[simp] theorem State.setBuf1_arg3 (b : Bytes) : (s.setBuf1 b).arg3 = s.arg3 := rfl
@[simp] theorem State.setBuf1_arg4 (b : Bytes) : (s.setBuf1 b).arg4 = s.arg4 := rfl
@[simp] theorem State.setBuf1_res0 (b : Bytes) : (s.setBuf1 b).res0 = s.res0 := rfl
@[simp] theorem State.setBuf1_res1 (b : Bytes) : (s.setBuf1 b).res1 = s.res1 := rfl
@[simp] theorem State.setBuf1_mem (b : Bytes) : (s.setBuf1 b).mem = { s.mem with buf1 := b } := rfl
@[simp] theorem State.setBuf1_schedule (b : Bytes) : (s.setBuf1 b).schedule = s.schedule := rfl
@[simp] theorem State.setBuf1_hostReads (b : Bytes) : (s.setBuf1 b).hostReads = s.hostReads := rfl

/-! ### setObuf -/

@[simp] theorem State.setObuf_cfg (b : Bytes) : (s.setObuf b).cfg = s.cfg := rfl
@[simp] theorem State.setObuf_cmd (b : Bytes) : (s.setObuf b).cmd = s.cmd := rfl
@[simp] theorem State.setObuf_status (b : Bytes) : (s.setObuf b).status = s.status := rfl
@[simp] theorem State.setObuf_arg0 (b : Bytes) : (s.setObuf b).arg0 = s.arg0 := rfl
@[simp] theorem State.setObuf_arg1 (b : Bytes) : (s.setObuf b).arg1 = s.arg1 := rfl
@[simp] theorem State.setObuf_arg2 (b : Bytes) : (s.setObuf b).arg2 = s.arg2 := rfl
@[simp] theorem State.setObuf_arg3 (b : Bytes) : (s.setObuf b).arg3 = s.arg3 := rfl
@[simp] theorem State.setObuf_arg4 (b : Bytes) : (s.setObuf b).arg4 = s.arg4 := rfl
@[simp] theorem State.setObuf_res0 (b : Bytes) : (s.setObuf b).res0 = s.res0 := rfl
@[simp] theorem State.setObuf_res1 (b : Bytes) : (s.setObuf b).res1 = s.res1 := rfl
@[simp] theorem State.setObuf_mem (b : Bytes) : (s.setObuf b).mem = { s.mem with obuf := b } := rfl
@[simp] theorem State.setObuf_schedule (b : Bytes) : (s.setObuf b).schedule = s.schedule := rfl
@[simp] theorem State.setObuf_hostReads (b : Bytes) : (s.setObuf b).hostReads = s.hostReads := rfl

/-! ### setRes0 -/

@[simp] theorem State.setRes0_cfg (v : Word) : (s.setRes0 v).cfg = s.cfg := rfl
@[simp] theorem State.setRes0_cmd (v : Word) : (s.setRes0 v).cmd = s.cmd := rfl
@[simp] theorem State.setRes0_status (v : Word) : (s.setRes0 v).status = s.status := rfl
@[simp] theorem State.setRes0_arg0 (v : Word) : (s.setRes0 v).arg0 = s.arg0 := rfl
@[simp] theorem State.setRes0_arg1 (v : Word) : (s.setRes0 v).arg1 = s.arg1 := rfl
@[simp] theorem State.setRes0_arg2 (v : Word) : (s.setRes0 v).arg2 = s.arg2 := rfl
@[simp] theorem State.setRes0_arg3 (v : Word) : (s.setRes0 v).arg3 = s.arg3 := rfl
@[simp] theorem State.setRes0_arg4 (v : Word) : (s.setRes0 v).arg4 = s.arg4 := rfl
@[simp] theorem State.setRes0_res0 (v : Word) : (s.setRes0 v).res0 = v := rfl
@[simp] theorem State.setRes0_res1 (v : Word) : (s.setRes0 v).res1 = s.res1 := rfl
@[simp] theorem State.setRes0_mem (v : Word) : (s.setRes0 v).mem = s.mem := rfl
@[simp] theorem State.setRes0_schedule (v : Word) : (s.setRes0 v).schedule = s.schedule := rfl
@[simp] theorem State.setRes0_hostReads (v : Word) : (s.setRes0 v).hostReads = s.hostReads := rfl

/-! ### setRes1 -/

@[simp] theorem State.setRes1_cfg (v : Word) : (s.setRes1 v).cfg = s.cfg := rfl
@[simp] theorem State.setRes1_cmd (v : Word) : (s.setRes1 v).cmd = s.cmd := rfl
@[simp] theorem State.setRes1_status (v : Word) : (s.setRes1 v).status = s.status := rfl
@[simp] theorem State.setRes1_arg0 (v : Word) : (s.setRes1 v).arg0 = s.arg0 := rfl
@[simp] theorem State.setRes1_arg1 (v : Word) : (s.setRes1 v).arg1 = s.arg1 := rfl
@[simp] theorem State.setRes1_arg2 (v : Word) : (s.setRes1 v).arg2 = s.arg2 := rfl
@[simp] theorem State.setRes1_arg3 (v : Word) : (s.setRes1 v).arg3 = s.arg3 := rfl
@[simp] theorem State.setRes1_arg4 (v : Word) : (s.setRes1 v).arg4 = s.arg4 := rfl
@[simp] theorem State.setRes1_res0 (v : Word) : (s.setRes1 v).res0 = s.res0 := rfl
@[simp] theorem State.setRes1_res1 (v : Word) : (s.setRes1 v).res1 = v := rfl
@[simp] theorem State.setRes1_mem (v : Word) : (s.setRes1 v).mem = s.mem := rfl
@[simp] theorem State.setRes1_schedule (v : Word) : (s.setRes1 v).schedule = s.schedule := rfl
@[simp] theorem State.setRes1_hostReads (v : Word) : (s.setRes1 v).hostReads = s.hostReads := rfl

/-! ### setStatus -/

@[simp] theorem State.setStatus_cfg (t : Status) : (s.setStatus t).cfg = s.cfg := rfl
@[simp] theorem State.setStatus_cmd (t : Status) : (s.setStatus t).cmd = s.cmd := rfl
@[simp] theorem State.setStatus_status (t : Status) : (s.setStatus t).status = t := rfl
@[simp] theorem State.setStatus_arg0 (t : Status) : (s.setStatus t).arg0 = s.arg0 := rfl
@[simp] theorem State.setStatus_arg1 (t : Status) : (s.setStatus t).arg1 = s.arg1 := rfl
@[simp] theorem State.setStatus_arg2 (t : Status) : (s.setStatus t).arg2 = s.arg2 := rfl
@[simp] theorem State.setStatus_arg3 (t : Status) : (s.setStatus t).arg3 = s.arg3 := rfl
@[simp] theorem State.setStatus_arg4 (t : Status) : (s.setStatus t).arg4 = s.arg4 := rfl
@[simp] theorem State.setStatus_res0 (t : Status) : (s.setStatus t).res0 = s.res0 := rfl
@[simp] theorem State.setStatus_res1 (t : Status) : (s.setStatus t).res1 = s.res1 := rfl
@[simp] theorem State.setStatus_mem (t : Status) : (s.setStatus t).mem = s.mem := rfl
@[simp] theorem State.setStatus_schedule (t : Status) : (s.setStatus t).schedule = s.schedule := rfl
@[simp] theorem State.setStatus_hostReads (t : Status) : (s.setStatus t).hostReads = s.hostReads := rfl

/-! ### setCmd -/

@[simp] theorem State.setCmd_cfg (op : BitVec 8) : (s.setCmd op).cfg = s.cfg := rfl
@[simp] theorem State.setCmd_cmd (op : BitVec 8) : (s.setCmd op).cmd = op := rfl
@[simp] theorem State.setCmd_status (op : BitVec 8) : (s.setCmd op).status = s.status := rfl
@[simp] theorem State.setCmd_arg0 (op : BitVec 8) : (s.setCmd op).arg0 = s.arg0 := rfl
@[simp] theorem State.setCmd_arg1 (op : BitVec 8) : (s.setCmd op).arg1 = s.arg1 := rfl
@[simp] theorem State.setCmd_arg2 (op : BitVec 8) : (s.setCmd op).arg2 = s.arg2 := rfl
@[simp] theorem State.setCmd_arg3 (op : BitVec 8) : (s.setCmd op).arg3 = s.arg3 := rfl
@[simp] theorem State.setCmd_arg4 (op : BitVec 8) : (s.setCmd op).arg4 = s.arg4 := rfl
@[simp] theorem State.setCmd_res0 (op : BitVec 8) : (s.setCmd op).res0 = s.res0 := rfl
@[simp] theorem State.setCmd_res1 (op : BitVec 8) : (s.setCmd op).res1 = s.res1 := rfl
@[simp] theorem State.setCmd_mem (op : BitVec 8) : (s.setCmd op).mem = s.mem := rfl
@[simp] theorem State.setCmd_schedule (op : BitVec 8) : (s.setCmd op).schedule = s.schedule := rfl
@[simp] theorem State.setCmd_hostReads (op : BitVec 8) : (s.setCmd op).hostReads = s.hostReads := rfl

/-! ### setSchedule -/

@[simp] theorem State.setSchedule_cfg (es : List Event) : (s.setSchedule es).cfg = s.cfg := rfl
@[simp] theorem State.setSchedule_cmd (es : List Event) : (s.setSchedule es).cmd = s.cmd := rfl
@[simp] theorem State.setSchedule_status (es : List Event) : (s.setSchedule es).status = s.status := rfl
@[simp] theorem State.setSchedule_arg0 (es : List Event) : (s.setSchedule es).arg0 = s.arg0 := rfl
@[simp] theorem State.setSchedule_arg1 (es : List Event) : (s.setSchedule es).arg1 = s.arg1 := rfl
@[simp] theorem State.setSchedule_arg2 (es : List Event) : (s.setSchedule es).arg2 = s.arg2 := rfl
@[simp] theorem State.setSchedule_arg3 (es : List Event) : (s.setSchedule es).arg3 = s.arg3 := rfl
@[simp] theorem State.setSchedule_arg4 (es : List Event) : (s.setSchedule es).arg4 = s.arg4 := rfl
@[simp] theorem State.setSchedule_res0 (es : List Event) : (s.setSchedule es).res0 = s.res0 := rfl
@[simp] theorem State.setSchedule_res1 (es : List Event) : (s.setSchedule es).res1 = s.res1 := rfl
@[simp] theorem State.setSchedule_mem (es : List Event) : (s.setSchedule es).mem = s.mem := rfl
@[simp] theorem State.setSchedule_schedule (es : List Event) : (s.setSchedule es).schedule = es := rfl
@[simp] theorem State.setSchedule_hostReads (es : List Event) : (s.setSchedule es).hostReads = s.hostReads := rfl

/-! ### setArg -/

@[simp] theorem State.setArg_cfg (i : Nat) (v : Word) : (s.setArg i v).cfg = s.cfg := by unfold State.setArg; split <;> rfl
@[simp] theorem State.setArg_cmd (i : Nat) (v : Word) : (s.setArg i v).cmd = s.cmd := by unfold State.setArg; split <;> rfl
@[simp] theorem State.setArg_status (i : Nat) (v : Word) : (s.setArg i v).status = s.status := by unfold State.setArg; split <;> rfl
@[simp] theorem State.setArg_res0 (i : Nat) (v : Word) : (s.setArg i v).res0 = s.res0 := by unfold State.setArg; split <;> rfl
@[simp] theorem State.setArg_res1 (i : Nat) (v : Word) : (s.setArg i v).res1 = s.res1 := by unfold State.setArg; split <;> rfl
@[simp] theorem State.setArg_mem (i : Nat) (v : Word) : (s.setArg i v).mem = s.mem := by unfold State.setArg; split <;> rfl
@[simp] theorem State.setArg_schedule (i : Nat) (v : Word) : (s.setArg i v).schedule = s.schedule := by unfold State.setArg; split <;> rfl
@[simp] theorem State.setArg_hostReads (i : Nat) (v : Word) : (s.setArg i v).hostReads = s.hostReads := by unfold State.setArg; split <;> rfl
@[simp] theorem State.setArg_buf0 (i : Nat) (v : Word) : (s.setArg i v).buf0 = s.buf0 := by unfold State.setArg; split <;> rfl
@[simp] theorem State.setArg_buf1 (i : Nat) (v : Word) : (s.setArg i v).buf1 = s.buf1 := by unfold State.setArg; split <;> rfl
@[simp] theorem State.setArg_obuf (i : Nat) (v : Word) : (s.setArg i v).obuf = s.obuf := by unfold State.setArg; split <;> rfl
@[simp] theorem State.setArg_len0 (i : Nat) (v : Word) : (s.setArg i v).len0 = s.len0 := by unfold State.setArg; split <;> rfl
@[simp] theorem State.setArg_len1 (i : Nat) (v : Word) : (s.setArg i v).len1 = s.len1 := by unfold State.setArg; split <;> rfl
@[simp] theorem State.setArg_olen (i : Nat) (v : Word) : (s.setArg i v).olen = s.olen := by unfold State.setArg; split <;> rfl

theorem State.arg_setArg_same (i : Nat) (v : Word) (h : i ≤ 4) : (s.setArg i v).arg i = v := by
  obtain _ | _ | _ | _ | _ | i := i
  all_goals first | rfl | omega

theorem State.arg_setArg_other (i j : Nat) (v : Word) (h : j ≠ i) : (s.setArg i v).arg j = s.arg j := by
  obtain _ | _ | _ | _ | _ | i := i <;> obtain _ | _ | _ | _ | _ | j := j
  all_goals first | rfl | exact absurd rfl h

/-- There is no register past ARG4, so nothing is written. -/
theorem State.setArg_none (i : Nat) (v : Word) (h : 4 < i) : s.setArg i v = s := by
  obtain _ | _ | _ | _ | _ | i := i
  all_goals first | rfl | omega

/-! ### The buffers and their lengths -/

@[simp] theorem State.length_buf0 : s.buf0.length = s.len0 := rfl
@[simp] theorem State.length_buf1 : s.buf1.length = s.len1 := rfl
@[simp] theorem State.length_obuf : s.obuf.length = s.olen := rfl
@[simp] theorem State.setBuf0_buf0 (b : Bytes) : (s.setBuf0 b).buf0 = b := rfl
@[simp] theorem State.setBuf0_buf1 (b : Bytes) : (s.setBuf0 b).buf1 = s.buf1 := rfl
@[simp] theorem State.setBuf0_obuf (b : Bytes) : (s.setBuf0 b).obuf = s.obuf := rfl
@[simp] theorem State.setBuf0_len0 (b : Bytes) : (s.setBuf0 b).len0 = b.length := rfl
@[simp] theorem State.setBuf0_len1 (b : Bytes) : (s.setBuf0 b).len1 = s.len1 := rfl
@[simp] theorem State.setBuf0_olen (b : Bytes) : (s.setBuf0 b).olen = s.olen := rfl
@[simp] theorem State.setBuf1_buf0 (b : Bytes) : (s.setBuf1 b).buf0 = s.buf0 := rfl
@[simp] theorem State.setBuf1_buf1 (b : Bytes) : (s.setBuf1 b).buf1 = b := rfl
@[simp] theorem State.setBuf1_obuf (b : Bytes) : (s.setBuf1 b).obuf = s.obuf := rfl
@[simp] theorem State.setBuf1_len0 (b : Bytes) : (s.setBuf1 b).len0 = s.len0 := rfl
@[simp] theorem State.setBuf1_len1 (b : Bytes) : (s.setBuf1 b).len1 = b.length := rfl
@[simp] theorem State.setBuf1_olen (b : Bytes) : (s.setBuf1 b).olen = s.olen := rfl
@[simp] theorem State.setObuf_buf0 (b : Bytes) : (s.setObuf b).buf0 = s.buf0 := rfl
@[simp] theorem State.setObuf_buf1 (b : Bytes) : (s.setObuf b).buf1 = s.buf1 := rfl
@[simp] theorem State.setObuf_obuf (b : Bytes) : (s.setObuf b).obuf = b := rfl
@[simp] theorem State.setObuf_len0 (b : Bytes) : (s.setObuf b).len0 = s.len0 := rfl
@[simp] theorem State.setObuf_len1 (b : Bytes) : (s.setObuf b).len1 = s.len1 := rfl
@[simp] theorem State.setObuf_olen (b : Bytes) : (s.setObuf b).olen = b.length := rfl
@[simp] theorem State.setRes0_buf0 (v : Word) : (s.setRes0 v).buf0 = s.buf0 := rfl
@[simp] theorem State.setRes0_buf1 (v : Word) : (s.setRes0 v).buf1 = s.buf1 := rfl
@[simp] theorem State.setRes0_obuf (v : Word) : (s.setRes0 v).obuf = s.obuf := rfl
@[simp] theorem State.setRes0_len0 (v : Word) : (s.setRes0 v).len0 = s.len0 := rfl
@[simp] theorem State.setRes0_len1 (v : Word) : (s.setRes0 v).len1 = s.len1 := rfl
@[simp] theorem State.setRes0_olen (v : Word) : (s.setRes0 v).olen = s.olen := rfl
@[simp] theorem State.setRes1_buf0 (v : Word) : (s.setRes1 v).buf0 = s.buf0 := rfl
@[simp] theorem State.setRes1_buf1 (v : Word) : (s.setRes1 v).buf1 = s.buf1 := rfl
@[simp] theorem State.setRes1_obuf (v : Word) : (s.setRes1 v).obuf = s.obuf := rfl
@[simp] theorem State.setRes1_len0 (v : Word) : (s.setRes1 v).len0 = s.len0 := rfl
@[simp] theorem State.setRes1_len1 (v : Word) : (s.setRes1 v).len1 = s.len1 := rfl
@[simp] theorem State.setRes1_olen (v : Word) : (s.setRes1 v).olen = s.olen := rfl
@[simp] theorem State.setStatus_buf0 (t : Status) : (s.setStatus t).buf0 = s.buf0 := rfl
@[simp] theorem State.setStatus_buf1 (t : Status) : (s.setStatus t).buf1 = s.buf1 := rfl
@[simp] theorem State.setStatus_obuf (t : Status) : (s.setStatus t).obuf = s.obuf := rfl
@[simp] theorem State.setStatus_len0 (t : Status) : (s.setStatus t).len0 = s.len0 := rfl
@[simp] theorem State.setStatus_len1 (t : Status) : (s.setStatus t).len1 = s.len1 := rfl
@[simp] theorem State.setStatus_olen (t : Status) : (s.setStatus t).olen = s.olen := rfl
@[simp] theorem State.setCmd_buf0 (op : BitVec 8) : (s.setCmd op).buf0 = s.buf0 := rfl
@[simp] theorem State.setCmd_buf1 (op : BitVec 8) : (s.setCmd op).buf1 = s.buf1 := rfl
@[simp] theorem State.setCmd_obuf (op : BitVec 8) : (s.setCmd op).obuf = s.obuf := rfl
@[simp] theorem State.setCmd_len0 (op : BitVec 8) : (s.setCmd op).len0 = s.len0 := rfl
@[simp] theorem State.setCmd_len1 (op : BitVec 8) : (s.setCmd op).len1 = s.len1 := rfl
@[simp] theorem State.setCmd_olen (op : BitVec 8) : (s.setCmd op).olen = s.olen := rfl
@[simp] theorem State.setSchedule_buf0 (es : List Event) : (s.setSchedule es).buf0 = s.buf0 := rfl
@[simp] theorem State.setSchedule_buf1 (es : List Event) : (s.setSchedule es).buf1 = s.buf1 := rfl
@[simp] theorem State.setSchedule_obuf (es : List Event) : (s.setSchedule es).obuf = s.obuf := rfl
@[simp] theorem State.setSchedule_len0 (es : List Event) : (s.setSchedule es).len0 = s.len0 := rfl
@[simp] theorem State.setSchedule_len1 (es : List Event) : (s.setSchedule es).len1 = s.len1 := rfl
@[simp] theorem State.setSchedule_olen (es : List Event) : (s.setSchedule es).olen = s.olen := rfl

/-! ### STATUS -/

@[simp] theorem Status.issued_busy (t : Status) : t.issued.busy = true := rfl
@[simp] theorem Status.issued_done (t : Status) : t.issued.done = false := rfl
@[simp] theorem Status.issued_estk (t : Status) : t.issued.estk = t.estk := rfl
@[simp] theorem Status.issued_kind (t : Status) : t.issued.kind = 0 := rfl
@[simp] theorem Status.issued_detail (t : Status) : t.issued.detail = 0 := rfl

@[simp] theorem Status.succeeded_busy (t : Status) : t.succeeded.busy = false := rfl
@[simp] theorem Status.succeeded_done (t : Status) : t.succeeded.done = true := rfl
@[simp] theorem Status.succeeded_estk (t : Status) : t.succeeded.estk = t.estk := rfl
@[simp] theorem Status.succeeded_kind (t : Status) : t.succeeded.kind = 0 := rfl
@[simp] theorem Status.succeeded_detail (t : Status) : t.succeeded.detail = 0 := rfl

@[simp] theorem Status.failed_busy (d : ErrorDetail) : (Status.failed d).busy = false := rfl
@[simp] theorem Status.failed_done (d : ErrorDetail) : (Status.failed d).done = true := rfl
@[simp] theorem Status.failed_estk (d : ErrorDetail) : (Status.failed d).estk = true := rfl
@[simp] theorem Status.failed_kind (d : ErrorDetail) : (Status.failed d).kind = d.kind.code := rfl
@[simp] theorem Status.failed_detail (d : ErrorDetail) : (Status.failed d).detail = d.code := rfl

@[simp] theorem Status.stickyCleared_busy (t : Status) : t.stickyCleared.busy = t.busy := rfl
@[simp] theorem Status.stickyCleared_done (t : Status) : t.stickyCleared.done = t.done := rfl
@[simp] theorem Status.stickyCleared_estk (t : Status) : t.stickyCleared.estk = false := rfl
@[simp] theorem Status.stickyCleared_kind (t : Status) : t.stickyCleared.kind = t.kind := rfl
@[simp] theorem Status.stickyCleared_detail (t : Status) : t.stickyCleared.detail = t.detail := rfl

/-- No cause of an error has the kind of success (spec/60_exceptions.md R282). -/
theorem ErrorDetail.kind_code_ne_zero (d : ErrorDetail) : d.kind.code ≠ 0 := by cases d <;> decide

/-! ### Reset -/

@[simp] theorem resetBlock_cfg : (resetBlock s).cfg = s.cfg := rfl
@[simp] theorem resetBlock_status : (resetBlock s).status = Status.reset := rfl
@[simp] theorem resetBlock_mem : (resetBlock s).mem = { buf0 := [], buf1 := [], obuf := [] } := rfl
@[simp] theorem resetBlock_schedule : (resetBlock s).schedule = s.schedule := rfl
@[simp] theorem resetBlock_hostReads : (resetBlock s).hostReads = s.hostReads := rfl

end Sys2Proof.Machine
end

