-- ==== Sys2Proof/Laws/Ops.lean ====
section
/-! SUPPORT. What each shared operation can do, said once: the two ways a command completes, the access operations of the
BYTEORDER unit, the capacity check, and the cases of a step. -/

namespace Sys2Proof.Machine

variable (s t : State)

/-! ### Completion -/

/-- A success answers the state with STATUS done and nothing else changed (spec/10_state.md R44). -/
@[simp] theorem succeed_eq_next : succeed s = .next t ↔ t = s.setStatus s.status.succeeded := by
  simp [succeed, eq_comm]

/-- A `raise` answers the state with STATUS in error and nothing else changed (spec/60_exceptions.md R290). -/
@[simp] theorem raise_eq_next (d : ErrorDetail) : raise d s = .next t ↔ t = s.setStatus (Status.failed d) := by
  simp [raise, eq_comm]

/-- A completion with a new OBUF. -/
@[simp] theorem succeedWithObuf_eq_next (out : Bytes) :
    succeedWithObuf s out = .next t ↔ t = (s.setObuf out).setStatus s.status.succeeded := by
  simp [succeedWithObuf]

/-- The capacity check: CAPACITY when the result is too long, else the new OBUF (spec/20_memory.md R64). -/
theorem succeedWithinCapacity_cases (out : Bytes) :
    (s.cfg.bufCap < out.length ∧ succeedWithinCapacity s out = raise .capacity s) ∨
    (out.length ≤ s.cfg.bufCap ∧ succeedWithinCapacity s out = succeedWithObuf s out) := by
  unfold succeedWithinCapacity
  split
  · exact .inl ⟨‹_›, rfl⟩
  · exact .inr ⟨by omega, rfl⟩

/-! ### The BYTEORDER unit -/

@[simp] theorem inBounds_eq_true (b : Bytes) (off n : Nat) : inBounds b off n = true ↔ off + n ≤ b.length := by
  simp [inBounds]

/-- A WR command stores in bounds and raises OUT_OF_BOUNDS otherwise (spec/40_byteorder.md R120). -/
theorem writeInteger_cases (w : Nat) (enc : Nat → Nat → Bytes) :
    (s.arg1.toNat + w ≤ s.len0 ∧ writeInteger w enc s =
      succeed (s.setBuf0 (memWrite s.buf0 s.arg1.toNat (enc w (s.arg0.toNat % 2 ^ (8 * w)))))) ∨
    (s.len0 < s.arg1.toNat + w ∧ writeInteger w enc s = raise .outOfBounds s) := by
  unfold writeInteger
  split
  · rename_i h; exact .inl ⟨by simpa [u64] using h, rfl⟩
  · rename_i h; exact .inr ⟨by simpa [u64] using h, rfl⟩

/-- An RD command loads in bounds and raises OUT_OF_BOUNDS otherwise (R133). -/
theorem readInteger_cases (w : Nat) (dec : Bytes → Nat) :
    (s.arg1.toNat + w ≤ s.len0 ∧ readInteger w dec s =
      succeed (s.setRes0 (BitVec.ofNat 64 (dec (memRead s.buf0 s.arg1.toNat w))))) ∨
    (s.len0 < s.arg1.toNat + w ∧ readInteger w dec s = raise .outOfBounds s) := by
  unfold readInteger
  split
  · rename_i h; exact .inl ⟨by simpa [u64] using h, rfl⟩
  · rename_i h; exact .inr ⟨by simpa [u64] using h, rfl⟩

/-! ### Steps -/

/-- `complete` in its three cases: the command's own meaning, ILLEGAL_COMMAND, or nothing while idle (R44, R98). -/
theorem complete_cases :
    (s.status.busy = true ∧ ∃ i, decodeWord s.cmd = .ok i ∧ complete s = exec i s) ∨
    (s.status.busy = true ∧ (∃ e, decodeWord s.cmd = .error e) ∧ complete s = raise .illegalCommand s) ∨
    (s.status.busy = false ∧ complete s = .next s) := by
  unfold complete
  cases hb : s.status.busy
  · simp
  · cases hd : decodeWord s.cmd <;> simp [completeInFlight, hd]

/-- A step is the block's turn, or the first event of the schedule with the rest still to come. -/
theorem step_cases :
    (s.schedule = [] ∧ step s = complete s) ∨
    (∃ rest, s.schedule = .complete :: rest ∧ step s = complete (s.setSchedule rest)) ∨
    (∃ rest, s.schedule = .reset :: rest ∧ step s = .next (resetBlock (s.setSchedule rest))) ∨
    (∃ op rest, s.schedule = .host op :: rest ∧ step s = .next (hostStep op (s.setSchedule rest))) := by
  unfold step nextStep
  cases hs : s.schedule with
  | nil => simp
  | cons e rest => cases e <;> simp [perform]

/-- The states of a list of events follow one another. -/
theorem performAll_append (xs ys : List Event) (h : performAll xs s = .next t) :
    performAll (xs ++ ys) s = performAll ys t := by
  induction xs generalizing s with
  | nil => simp only [performAll, Host.Outcome.next.injEq] at h; simp [h]
  | cons e xs ih =>
    rw [List.cons_append, performAll]
    rw [performAll] at h
    split at h
    · exact ih _ h
    · cases h
    · cases h

end Sys2Proof.Machine
end

