-- ==== Sys2Proof/Laws/HostPort.lean ====
section
/-! SUPPORT. What a host port operation can change, and how a run unfolds. -/

namespace Sys2Proof.Machine

variable (op : HostOp) (s : State)

/-- A host operation in its cases: dropped, or the one effect of R40 to R46. -/
theorem hostStep_cases :
    hostStep op s = s ∨
    (s.status.busy = false ∧ ∃ i v, op = .writeArg i v ∧ hostStep op s = s.setArg i v) ∨
    (s.status.busy = false ∧ ∃ b, op = .loadBuf 0 b ∧ b.length ≤ s.cfg.bufCap ∧ hostStep op s = s.setBuf0 b) ∨
    (s.status.busy = false ∧ ∃ b, op = .loadBuf 1 b ∧ b.length ≤ s.cfg.bufCap ∧ hostStep op s = s.setBuf1 b) ∨
    (s.status.busy = false ∧ ∃ w, op = .issue w ∧ hostStep op s = (s.setCmd w).setStatus s.status.issued) ∨
    (∃ r, op = .read r ∧ hostStep op s = { s with hostReads := readRegister s r :: s.hostReads }) ∨
    (op = .clearSticky ∧ hostStep op s = s.setStatus s.status.stickyCleared) := by
  cases op with
  | writeArg i v => cases hb : s.status.busy <;> simp [hostStep, hostWriteArg, hb]
  | loadBuf n b =>
    cases hb : s.status.busy
    · by_cases hl : b.length ≤ s.cfg.bufCap
      · obtain _ | _ | n := n <;> simp [hostStep, hostLoadBuf, hb, Nat.not_lt.2 hl, hl]
      · exact .inl (by simp [hostStep, hostLoadBuf, Nat.not_le.1 hl])
    · exact .inl (by simp [hostStep, hostLoadBuf, hb])
  | issue w => cases hb : s.status.busy <;> simp [hostStep, hostIssue, hb]
  | read r => simp [hostStep, hostRead]
  | clearSticky => simp [hostStep, hostClearSticky]

/-! No host operation touches the parameters, the schedule or a place the commands write their results to. -/

@[simp] theorem hostStep_cfg : (hostStep op s).cfg = s.cfg := by
  rcases hostStep_cases op s with h | ⟨_, _, _, _, h⟩ | ⟨_, _, _, _, h⟩ | ⟨_, _, _, _, h⟩ | ⟨_, _, _, h⟩ | ⟨_, _, h⟩ | ⟨_, h⟩ <;>
    simp [h]

@[simp] theorem hostStep_schedule : (hostStep op s).schedule = s.schedule := by
  rcases hostStep_cases op s with h | ⟨_, _, _, _, h⟩ | ⟨_, _, _, _, h⟩ | ⟨_, _, _, _, h⟩ | ⟨_, _, _, h⟩ | ⟨_, _, h⟩ | ⟨_, h⟩ <;>
    simp [h]

@[simp] theorem hostStep_res0 : (hostStep op s).res0 = s.res0 := by
  rcases hostStep_cases op s with h | ⟨_, _, _, _, h⟩ | ⟨_, _, _, _, h⟩ | ⟨_, _, _, _, h⟩ | ⟨_, _, _, h⟩ | ⟨_, _, h⟩ | ⟨_, h⟩ <;>
    simp [h]

@[simp] theorem hostStep_res1 : (hostStep op s).res1 = s.res1 := by
  rcases hostStep_cases op s with h | ⟨_, _, _, _, h⟩ | ⟨_, _, _, _, h⟩ | ⟨_, _, _, _, h⟩ | ⟨_, _, _, h⟩ | ⟨_, _, h⟩ | ⟨_, h⟩ <;>
    simp [h]

@[simp] theorem hostStep_obuf : (hostStep op s).obuf = s.obuf := by
  rcases hostStep_cases op s with h | ⟨_, _, _, _, h⟩ | ⟨_, _, _, _, h⟩ | ⟨_, _, _, _, h⟩ | ⟨_, _, _, h⟩ | ⟨_, _, h⟩ | ⟨_, h⟩ <;>
    simp [h]

/-! ### Runs -/

theorem run_zero : Sys2Proof.core.run 0 s = .next s := rfl

/-- A run of one more step of any machine, when the step answers a next state. -/
theorem Core.run_succ (M : Host.Core) (k : Nat) (s t : M.State) (h : M.step s = .next t) : M.run (k + 1) s = M.run k t := by
  rw [Host.Core.run, h]

/-- A run of one more step, when the step answers a next state. -/
theorem run_succ (k : Nat) (t : State) (h : step s = .next t) : Sys2Proof.core.run (k + 1) s = Sys2Proof.core.run k t :=
  Core.run_succ Sys2Proof.core k s t h

end Sys2Proof.Machine
end

