-- ==== Sys2Proof/Laws/Memory.lean ====
section
/-! SUPPORT. Every operation on the buffers keeps them within their capacity (spec/10_state.md R23), and the reset state's
buffers are. -/

namespace Sys2Proof.Machine

theorem Memory.wf_iff (c : Config) (m : Memory) :
    m.wf c = true ↔ m.buf0.length ≤ c.bufCap ∧ m.buf1.length ≤ c.bufCap ∧ m.obuf.length ≤ c.bufCap := by
  simp [Memory.wf, and_assoc]

theorem reset_memory_wf : State.reset.mem.wf State.reset.cfg = true := by decide

/-- A command's write into BUF0 keeps the form: it keeps the length. -/
theorem setBuf0_memWrite_wf (s : State) (off : Nat) (src : Bytes) (h : off + src.length ≤ s.len0)
    (hs : s.mem.wf s.cfg = true) : (s.setBuf0 (memWrite s.buf0 off src)).mem.wf s.cfg = true := by
  rw [Memory.wf_iff] at hs ⊢
  simpa [length_memWrite _ _ _ h] using hs

/-- A new OBUF keeps the form when it fits. -/
theorem setObuf_wf (s : State) (out : Bytes) (h : out.length ≤ s.cfg.bufCap) (hs : s.mem.wf s.cfg = true) :
    (s.setObuf out).mem.wf s.cfg = true := by
  rw [Memory.wf_iff] at hs ⊢
  exact ⟨hs.1, hs.2.1, h⟩

/-- HostLoadBuf keeps the form: it drops what is too long (R41). -/
theorem hostLoadBuf_wf (n : Nat) (b : Bytes) (s : State) (hs : s.mem.wf s.cfg = true) :
    (hostLoadBuf n b s).mem.wf s.cfg = true := by
  rw [Memory.wf_iff] at hs ⊢
  unfold hostLoadBuf
  split
  · exact hs
  · split
    · exact hs
    · rename_i hlen
      split
      · exact ⟨by simpa using hlen, hs.2.1, hs.2.2⟩
      · exact ⟨hs.1, by simpa using hlen, hs.2.2⟩
      · exact hs

/-- Reset empties the buffers. -/
theorem resetBlock_wf (s : State) : (resetBlock s).mem.wf s.cfg = true := by simp [Memory.wf_iff]

end Sys2Proof.Machine
end

