-- ==== Sys2Proof/Laws/PerInstr.lean ====
section
/-! SUPPORT. Facts about each command as syntax, one lemma per constructor. -/

namespace Sys2Proof.Laws.UnitNumber

/-- The `unit` field of a command's word is the number of its unit (spec/30_encoding.md R90). -/
def number : CodecUnit → Nat
  | .byteorder => 1
  | .bytearray => 2
  | .hash => 3
  | .varint => 4
  | .b58 => 5

/-- The word of a command is in its own unit, and of the 8-bit format (R90). -/
def Statement (i : Instr) : Prop := (unitField (encode i)).toNat = number i.unit

theorem wr16be : Statement .wr16be := by unfold Statement; decide
theorem wr16le : Statement .wr16le := by unfold Statement; decide
theorem wr32be : Statement .wr32be := by unfold Statement; decide
theorem wr32le : Statement .wr32le := by unfold Statement; decide
theorem wr64be : Statement .wr64be := by unfold Statement; decide
theorem wr64le : Statement .wr64le := by unfold Statement; decide
theorem rd16be : Statement .rd16be := by unfold Statement; decide
theorem rd16le : Statement .rd16le := by unfold Statement; decide
theorem rd32be : Statement .rd32be := by unfold Statement; decide
theorem rd32le : Statement .rd32le := by unfold Statement; decide
theorem rd64be : Statement .rd64be := by unfold Statement; decide
theorem rd64le : Statement .rd64le := by unfold Statement; decide
theorem revb : Statement .revb := by unfold Statement; decide
theorem revdw : Statement .revdw := by unfold Statement; decide
theorem bitchk : Statement .bitchk := by unfold Statement; decide
theorem bitset : Statement .bitset := by unfold Statement; decide
theorem hex2bin : Statement .hex2bin := by unfold Statement; decide
theorem bin2hex : Statement .bin2hex := by unfold Statement; decide
theorem sha256 : Statement .sha256 := by unfold Statement; decide
theorem sha256d : Statement .sha256d := by unfold Statement; decide
theorem sha256d2 : Statement .sha256d2 := by unfold Statement; decide
theorem hash160 : Statement .hash160 := by unfold Statement; decide
theorem viEnc : Statement .viEnc := by unfold Statement; decide
theorem viDec : Statement .viDec := by unfold Statement; decide
theorem b58Enc : Statement .b58Enc := by unfold Statement; decide
theorem b58Dec : Statement .b58Dec := by unfold Statement; decide
theorem b58cEnc : Statement .b58cEnc := by unfold Statement; decide
theorem b58cDec : Statement .b58cDec := by unfold Statement; decide

end Sys2Proof.Laws.UnitNumber
end

