-- ==== Sys2Proof/Tests/Slice0.lean ====
section
/-! SUPPORT. The model's own tests. Every expected value is one of spec/95_test_vectors.md or a word written out from
spec/30_encoding.md; the vector is named in the comment. The last part shows, for each statement with hypotheses, a
concrete state and operands that meet them. -/

namespace Sys2Proof.Tests

open Sys2Proof.Machine Sys2Proof.Spec

-- One theorem at a time: many kernel evaluations at once take too many threads.
set_option Elab.async false

/-! ### Helpers -/

/-- Bytes written as numbers. -/
def bytes (ns : List Nat) : Bytes := ns.map (BitVec.ofNat 8)

/-- The outcome is a next state with this property. -/
def answers (o : Host.Outcome State Fault Refusal) (p : State → Bool) : Bool :=
  match o with
  | .next t => p t
  | .fault _ => false
  | .refused _ => false

theorem exists_of_answers {o : Host.Outcome State Fault Refusal} {p : State → Bool} (h : answers o p = true) :
    ∃ t, o = .next t ∧ p t = true := by
  cases o with
  | next t => exact ⟨t, rfl, h⟩
  | fault r => cases h
  | refused r => cases h

/-- The reset state with bytes in BUF0. -/
def withBytes (b : Bytes) : State := withBuf0 State.reset b

/-- The reset state with bytes in BUF0, a value in ARG0 and an offset in ARG1. -/
def atOffset (b : Bytes) (v off : Word) : State := { withBytes b with arg0 := v, arg1 := off }

/-- The reset state with bytes in BUF0, an offset in ARG1 and a length in ARG2. -/
def withRange (b : Bytes) (off n : Word) : State := { withBytes b with arg1 := off, arg2 := n }

/-- The reset state with two buffers and two ranges. -/
def withRanges (b c : Bytes) (off n off2 n2 : Word) : State :=
  { State.reset with mem := { buf0 := b, buf1 := c, obuf := [] }, arg1 := off, arg2 := n, arg3 := off2, arg4 := n2 }

/-- The reset state of a block with other parameters. -/
def withConfig (cap : Nat) (upper : Bool) (b : Bytes) : State :=
  { withBytes b with cfg := { bufCap := cap, hexUpperOk := upper } }

/-- A state with a command word in flight. -/
def inFlight (s : State) (op : BitVec 8) : State := issued s op

/-- One step that runs the command word `w` answers a next state with STATUS `status` and this property. -/
def runs (w : Nat) (s : State) (status : BitVec 32) (p : State → Bool) : Bool :=
  answers (step (s.withFetchWord 8 w)) fun t => t.status.word == status && p t

/-- `a×n`: n bytes 0x61. -/
def letters (n : Nat) : Bytes := List.replicate n 0x61#8

/-! ### WellFormed: the check accepts what R8, R40, R41, R95 allow and refuses the rest -/

theorem test_config_in_range : (Config.mk 64 false).wf = true ∧ (Config.mk (2 ^ 32 - 1) true).wf = true := by decide
theorem test_config_too_small : (Config.mk 63 false).wf = false := by decide
theorem test_config_too_large : (Config.mk (2 ^ 32) false).wf = false := by decide
theorem test_writeArg_known : (HostOp.writeArg 4 0).wf = true ∧ (HostOp.writeArg 5 0).wf = false := by decide
theorem test_loadBuf_known : (HostOp.loadBuf 1 []).wf = true ∧ (HostOp.loadBuf 2 []).wf = false := by decide
theorem test_event_carries_operation : (Event.host (.loadBuf 2 [])).wf = false ∧ Event.reset.wf = true := by decide
theorem test_stmt_wf : (Stmt.mk .wr32be [(0, 0x11223344), (1, 1)]).wf = true := by decide
theorem test_stmt_missing_operand : (Stmt.mk .wr32be [(0, 0x11223344)]).wf = false := by decide
theorem test_stmt_wrong_operand : (Stmt.mk .rd32be [(0, 1)]).wf = false := by decide
theorem test_stmt_operand_too_many : (Stmt.mk .revb [(0, 1)]).wf = false := by decide

/-! ### Decode: `unit` in bits 7:4 and `fn` in bits 3:0, written out bit by bit (R90 to R92) -/

theorem test_decode_byteorder_write :
    decodeWord 0b00010000#8 = .ok .wr16be ∧ decodeWord 0b00010001#8 = .ok .wr16le ∧
    decodeWord 0b00010010#8 = .ok .wr32be ∧ decodeWord 0b00010011#8 = .ok .wr32le ∧
    decodeWord 0b00010100#8 = .ok .wr64be ∧ decodeWord 0b00010101#8 = .ok .wr64le := by decide
theorem test_decode_byteorder_read :
    decodeWord 0b00011000#8 = .ok .rd16be ∧ decodeWord 0b00011001#8 = .ok .rd16le ∧
    decodeWord 0b00011010#8 = .ok .rd32be ∧ decodeWord 0b00011011#8 = .ok .rd32le ∧
    decodeWord 0b00011100#8 = .ok .rd64be ∧ decodeWord 0b00011101#8 = .ok .rd64le := by decide
theorem test_decode_bytearray :
    decodeWord 0b00100000#8 = .ok .revb ∧ decodeWord 0b00100001#8 = .ok .revdw ∧
    decodeWord 0b00100010#8 = .ok .bitchk ∧ decodeWord 0b00100011#8 = .ok .bitset ∧
    decodeWord 0b00100100#8 = .ok .hex2bin ∧ decodeWord 0b00100101#8 = .ok .bin2hex := by decide
theorem test_decode_hash :
    decodeWord 0b00110000#8 = .ok .sha256 ∧ decodeWord 0b00110001#8 = .ok .sha256d ∧
    decodeWord 0b00110010#8 = .ok .sha256d2 ∧ decodeWord 0b00110011#8 = .ok .hash160 := by decide
theorem test_decode_varint :
    decodeWord 0b01000000#8 = .ok .viEnc ∧ decodeWord 0b01000001#8 = .ok .viDec := by decide
theorem test_decode_b58 :
    decodeWord 0b01010000#8 = .ok .b58Enc ∧ decodeWord 0b01010001#8 = .ok .b58Dec ∧
    decodeWord 0b01010010#8 = .ok .b58cEnc ∧ decodeWord 0b01010011#8 = .ok .b58cDec := by decide
theorem test_decode_rejects_by_name :
    decodeWord 0x00#8 = .error (.reservedUnit 0) ∧ decodeWord 0x16#8 = .error (.reservedWidth 6) ∧
    decodeWord 0x1F#8 = .error (.reservedWidth 15) ∧ decodeWord 0x26#8 = .error (.reservedFunction 2 6) ∧
    decodeWord 0x54#8 = .error (.reservedFunction 5 4) ∧ decodeWord 0x60#8 = .error (.reservedUnit 6) := by decide
theorem test_decode_takes_one_byte :
    decodeBytes [0x33#8, 0x20#8] = .ok (.hash160, [0x20#8]) ∧ decodeBytes [] = .error .noCommandWord := by decide
theorem test_encode_statement :
    Stmt.events (.mk .wr16be [(0, 7), (1, 3)]) =
      [.host (.writeArg 0 7), .host (.writeArg 1 3), .host (.issue 0b00010000#8), .complete] := by decide

/-! ### BYTEORDER (O vectors) -/

/-- O11 -/
theorem test_wr16be : runs 0x10 (atOffset (bytes [0, 0, 0]) 0xABCD 1) 2 fun t => t.buf0 == bytes [0, 0xAB, 0xCD] := by decide
/-- O12 -/
theorem test_wr16le_low_bits : runs 0x11 (atOffset (bytes [0, 0, 0]) 0x1ABCD 1) 2 fun t => t.buf0 == bytes [0, 0xCD, 0xAB] := by
  decide
/-- O1 -/
theorem test_wr32be : runs 0x12 (atOffset (bytes [0, 0, 0, 0, 0, 0]) 0x11223344 1) 2 fun t =>
    t.buf0 == bytes [0, 0x11, 0x22, 0x33, 0x44, 0] := by decide
/-- O7 -/
theorem test_wr32be_sum_does_not_wrap : runs 0x12 (atOffset (bytes [0, 0, 0, 0]) 0 0xFFFFFFFFFFFFFFFF) 0x00010106 fun t =>
    t.buf0 == bytes [0, 0, 0, 0] := by decide
/-- O4 -/
theorem test_wr32le_last_offset : runs 0x13 (atOffset (bytes [0, 0, 0, 0, 0, 0]) 1 2) 2 fun t =>
    t.buf0 == bytes [0, 0, 1, 0, 0, 0] := by decide
/-- O5 -/
theorem test_wr32le_out_of_bounds : runs 0x13 (atOffset (bytes [0, 0, 0, 0, 0, 0]) 1 3) 0x00010106 fun t =>
    t.buf0 == bytes [0, 0, 0, 0, 0, 0] := by decide
/-- O9 -/
theorem test_wr64be : runs 0x14 (atOffset (bytes [0, 0, 0, 0, 0, 0, 0, 0]) 0x0102030405060708 0) 2 fun t =>
    t.buf0 == bytes [1, 2, 3, 4, 5, 6, 7, 8] := by decide
/-- O8 -/
theorem test_wr64le : runs 0x15 (atOffset (bytes [0, 0, 0, 0, 0, 0, 0, 0]) 0x0102030405060708 0) 2 fun t =>
    t.buf0 == bytes [8, 7, 6, 5, 4, 3, 2, 1] := by decide
/-- O10 -/
theorem test_wr64le_out_of_bounds : runs 0x15 (atOffset (bytes [0, 0, 0, 0, 0, 0, 0]) 0 0) 0x00010106 fun t =>
    t.len0 == 7 := by decide
/-- O21 -/
theorem test_rd16be : runs 0x18 (atOffset (bytes [0x11, 0x22, 0x33, 0x44]) 0 2) 2 fun t => t.res0 == 0x3344 := by decide
/-- O22 -/
theorem test_rd16le : runs 0x19 (atOffset (bytes [0x11, 0x22, 0x33, 0x44]) 0 2) 2 fun t => t.res0 == 0x4433 := by decide
/-- O13 -/
theorem test_rd32be : runs 0x1A (atOffset (bytes [0xDE, 0xAD, 0xBE, 0xEF]) 0 0) 2 fun t => t.res0 == 0x00000000DEADBEEF := by
  decide
/-- O15 -/
theorem test_rd32be_unsigned : runs 0x1A (atOffset (bytes [0xFF, 0xFF, 0xFF, 0xFF]) 0 0) 2 fun t =>
    t.res0 == 0x00000000FFFFFFFF := by decide
/-- O14 -/
theorem test_rd32le : runs 0x1B (atOffset (bytes [0xDE, 0xAD, 0xBE, 0xEF]) 0 0) 2 fun t => t.res0 == 0x00000000EFBEADDE := by
  decide
/-- O16 -/
theorem test_rd32le_out_of_bounds : runs 0x1B (atOffset (bytes [0xDE, 0xAD, 0xBE, 0xEF]) 0 1) 0x00010106 fun t =>
    t.res0 == 0 := by decide
/-- O20 -/
theorem test_rd64be : runs 0x1C (atOffset (bytes [1, 2, 3, 4, 5, 6, 7, 8]) 0 0) 2 fun t => t.res0 == 0x0102030405060708 := by
  decide
/-- O17 -/
theorem test_rd64le : runs 0x1D (atOffset (bytes [8, 7, 6, 5, 4, 3, 2, 1]) 0 0) 2 fun t => t.res0 == 0x0102030405060708 := by
  decide
/-- O19 -/
theorem test_rd64le_pattern : runs 0x1D (atOffset (bytes [0, 0, 0, 0, 0, 0, 0, 0x80]) 0 0) 2 fun t =>
    t.res0 == 0x8000000000000000 := by decide

/-! ### BYTEARRAY (A vectors) -/

/-- A1 -/
theorem test_revb : runs 0x20 (withBytes (bytes [1, 2, 3, 4, 5])) 2 fun t =>
    t.obuf == bytes [5, 4, 3, 2, 1] && t.olen == 5 && t.buf0 == bytes [1, 2, 3, 4, 5] := by decide
/-- A6, A8, A9d: a trim within the length, a longer one, a negative one -/
theorem test_revdw_trim :
    runs 0x21 (atOffset (bytes [1, 2, 3, 4, 5, 6, 7, 8]) 4 0) 2 (fun t => t.obuf == bytes [4, 3, 2, 1]) ∧
    runs 0x21 (atOffset (bytes [1, 2, 3, 4, 5, 6, 7, 8]) 12 0) 2 (fun t => t.obuf == bytes [4, 3, 2, 1, 8, 7, 6, 5]) ∧
    runs 0x21 (atOffset (bytes [1, 2, 3, 4]) 0xFFFFFFFFFFFFFFF8 0) 2 (fun t => t.obuf == bytes [4, 3, 2, 1]) := by decide
/-- A9, A9c: a bad trim, and the length checked before it -/
theorem test_revdw_checks :
    runs 0x21 (atOffset (bytes [1, 2, 3, 4, 5, 6, 7, 8]) 6 0) 0x00030106 (fun t => t.olen == 0) ∧
    runs 0x21 (atOffset (bytes [1, 2, 3, 4, 5, 6]) 6 0) 0x00020106 (fun t => t.olen == 0) := by decide
/-- A11, A12 -/
theorem test_bitchk : runs 0x22 (atOffset (bytes [0x01, 0x80]) 0 1) 2 (fun t => t.res0 == 0) ∧
    runs 0x22 (atOffset (bytes [0x01, 0x80]) 0 15) 2 (fun t => t.res0 == 1) := by decide
/-- A13 -/
theorem test_bitchk_out_of_bounds : runs 0x22 (atOffset (bytes [0x01, 0x80]) 0 16) 0x00010106 fun t => t.res0 == 0 := by decide
/-- A14, A15b -/
theorem test_bitset : runs 0x23 (atOffset (bytes [0, 0]) 0 9) 2 (fun t => t.buf0 == bytes [0, 2]) ∧
    runs 0x23 (atOffset (bytes [0, 0]) 0 7) 2 (fun t => t.buf0 == bytes [0x80, 0]) := by decide
/-- A15c -/
theorem test_bitset_empty : runs 0x23 (atOffset [] 0 0) 0x00010106 fun t => t.buf0 == [] := by decide
/-- A16, A21 with both values of the parameter -/
theorem test_hex2bin :
    runs 0x24 (withBytes (text "00ff10")) 2 (fun t => t.obuf == bytes [0x00, 0xFF, 0x10]) ∧
    runs 0x24 (withConfig 4096 false (text "AB")) 0x00110206 (fun t => t.olen == 0) ∧
    runs 0x24 (withConfig 4096 true (text "AB")) 2 (fun t => t.obuf == bytes [0xAB]) := by decide +kernel
/-- A20, A21b: no prefix, and the length checked before the digits -/
theorem test_hex2bin_checks :
    runs 0x24 (withBytes (text "0x10")) 0x00110206 (fun t => t.olen == 0) ∧
    runs 0x24 (withBytes (text "0g1")) 0x00100206 (fun t => t.olen == 0) := by decide +kernel
/-- A22 -/
theorem test_bin2hex : runs 0x25 (withBytes (bytes [0x00, 0xFF, 0x10])) 2 fun t => t.obuf == text "00ff10" := by decide +kernel
/-- A24 -/
theorem test_bin2hex_capacity : runs 0x25 (withBytes (letters 2049)) 0x00040106 fun t => t.olen == 0 := by decide +kernel

/-! ### HASH (H vectors) -/

/-- H20, H21 -/
theorem test_sha256_range :
    runs 0x30 (withRange (text "abc") 0 3) 2 (fun t => t.olen == 32 &&
      bigEndian t.obuf == 0xba7816bf8f01cfea414140de5dae2223b00361a396177a9cb410ff61f20015ad) ∧
    runs 0x30 (withRange (text "xabcx") 1 3) 2 (fun t =>
      bigEndian t.obuf == 0xba7816bf8f01cfea414140de5dae2223b00361a396177a9cb410ff61f20015ad) := by decide +kernel
/-- H22, H23: an empty range at the end, and one byte past it -/
theorem test_sha256_bounds :
    runs 0x30 (withRange (text "abc") 3 0) 2 (fun t =>
      bigEndian t.obuf == 0xe3b0c44298fc1c149afbf4c8996fb92427ae41e4649b934ca495991b7852b855) ∧
    runs 0x30 (withRange (text "abc") 1 3) 0x00010106 (fun t => t.olen == 0) := by decide +kernel
/-- H24 -/
theorem test_sha256d : runs 0x31 (withRange (text "hello") 0 5) 2 fun t =>
    bigEndian t.obuf == 0x9595c9df90075148eb06860365df33584b75bff782a510c6cd4883a419833d50 := by decide +kernel
/-- H27 -/
theorem test_sha256d_of_joined_bytes : runs 0x31 (withRange (0x05#8 :: text "hello") 0 6) 2 fun t =>
    bigEndian t.obuf == 0x838a3751cb737a28373d14271bd041c6632f74d8be677e02a7b1969190113683 := by decide +kernel
/-- H26 -/
theorem test_sha256d2 : runs 0x32 (withRanges (bytes [5]) (text "hello") 0 1 0 5) 2 fun t =>
    bigEndian t.obuf == 0x838a3751cb737a28373d14271bd041c6632f74d8be677e02a7b1969190113683 := by decide +kernel
/-- H28, H30 -/
theorem test_sha256d2_ranges :
    runs 0x32 (withRanges (text "hel") (text "xlo") 0 3 1 2) 2 (fun t =>
      bigEndian t.obuf == 0x9595c9df90075148eb06860365df33584b75bff782a510c6cd4883a419833d50) ∧
    runs 0x32 (withRanges (text "hello") (text "a") 0 5 1 1) 0x00010106 (fun t => t.olen == 0) := by decide +kernel
/-- H31 -/
theorem test_hash160 : runs 0x33 (withBytes (text "hello")) 2 fun t => t.olen == 20 &&
    bigEndian t.obuf == 0xb6a9c8c230722b7c748331a8b450f05566dc7d0f := by decide +kernel
/-- H32 -/
theorem test_hash160_empty : runs 0x33 (withBytes []) 2 fun t =>
    bigEndian t.obuf == 0xb472a266d0bd89c13706a4132ccfb16f7c3b9fcb := by decide +kernel
/-- H4, H5, H8: the padding at its edges -/
theorem test_sha256Digest_block_edges :
    bigEndian (sha256Digest (letters 55)) = 0x9f4390f8d30c2dd92ec9f095b65e2b9ae9b0a925a5258e241c9f1e910f734318 ∧
    bigEndian (sha256Digest (letters 56)) = 0xb35439a4ac6f0948b6d6f9e3c6af0f5f590ce20f1bde7090ef7970686ec6738a ∧
    bigEndian (sha256Digest (letters 119)) = 0x31eba51c313a5c08226adf18d4a359cfdfd8d2e816b13f4af952f7ea6584dcfb := by
  decide +kernel
/-- H12, H15, H17 -/
theorem test_rmd160Digest_block_edges :
    bigEndian (rmd160Digest (text "abc")) = 0x8eb208f7e05d987a9b044a8e98c6b087f15a0bfc ∧
    bigEndian (rmd160Digest (letters 55)) = 0x0d8a8c9063a48576a7c97e9f95253a6e53ff6765 ∧
    bigEndian (rmd160Digest (letters 64)) = 0x9dfb7d374ad924f3f88de96291c33e9abed53e32 := by decide +kernel

/-! ### VARINT (V vectors) -/

/-- V2, V3, V6 -/
theorem test_viEnc_short :
    runs 0x40 (atOffset [] 0xFC 0) 2 (fun t => t.obuf == bytes [0xFC]) ∧
    runs 0x40 (atOffset [] 0xFD 0) 2 (fun t => t.obuf == bytes [0xFD, 0xFD, 0x00]) ∧
    runs 0x40 (atOffset [] 0xFFFF 0) 2 (fun t => t.obuf == bytes [0xFD, 0xFF, 0xFF]) := by decide
/-- V7, V8, V9 -/
theorem test_viEnc_long :
    runs 0x40 (atOffset [] 0x10000 0) 2 (fun t => t.obuf == bytes [0xFE, 0, 0, 1, 0]) ∧
    runs 0x40 (atOffset [] 0xFFFFFFFF 0) 2 (fun t => t.obuf == bytes [0xFE, 0xFF, 0xFF, 0xFF, 0xFF]) ∧
    runs 0x40 (atOffset [] 0x100000000 0) 2 (fun t => t.obuf == bytes [0xFF, 0, 0, 0, 0, 1, 0, 0, 0]) := by decide
/-- V13, V14, V15 -/
theorem test_viDec :
    runs 0x41 (withBytes (bytes [0xFD, 0x34, 0x12, 0x99])) 2 (fun t => t.res0 == 0x1234 && t.res1 == 3) ∧
    runs 0x41 (withBytes (bytes [0xFD, 0x01, 0x00])) 2 (fun t => t.res0 == 1 && t.res1 == 3) ∧
    runs 0x41 (withBytes (bytes [0xFF, 0, 0, 0, 0, 0, 0, 0, 0])) 2 (fun t => t.res0 == 0 && t.res1 == 9) := by decide
/-- V16, V17, V19 -/
theorem test_viDec_truncated :
    runs 0x41 (withBytes []) 0x00120206 (fun t => t.res1 == 0) ∧
    runs 0x41 (withBytes (bytes [0xFD, 0x34])) 0x00120206 (fun t => t.res1 == 0) ∧
    runs 0x41 (withBytes (bytes [0xFF, 1, 2, 3, 4, 5, 6, 7])) 0x00120206 (fun t => t.res1 == 0) := by decide

/-! ### B58 (B and K vectors) -/

/-- B8, B13 -/
theorem test_b58Enc :
    runs 0x50 (withBytes (bytes [0x3A])) 2 (fun t => t.obuf == text "21") ∧
    runs 0x50 (withBytes (bytes [0x00, 0x00, 0x28, 0x7F, 0xB4, 0xCD])) 2 (fun t => t.obuf == text "11233QC4") := by
  decide +kernel
/-- B14 -/
theorem test_b58Enc_text : runs 0x50 (withBytes (text "Hello World")) 2 fun t => t.obuf == text "JxF12TrwUP45BMd" := by
  decide +kernel
/-- B3, B10, B12 -/
theorem test_b58Dec :
    runs 0x51 (withBytes (text "1111")) 2 (fun t => t.obuf == bytes [0, 0, 0, 0]) ∧
    runs 0x51 (withBytes (text "11115T")) 2 (fun t => t.obuf == bytes [0, 0, 0, 0, 1, 2]) ∧
    runs 0x51 (withBytes (text "5R")) 2 (fun t => t.obuf == bytes [1, 0]) := by decide +kernel
/-- B21, B23 -/
theorem test_b58Dec_bad_char :
    runs 0x51 (withBytes (text "2gO")) 0x00130206 (fun t => t.olen == 0) ∧
    runs 0x51 (withBytes (bytes [0x32, 0x67, 0xC3])) 0x00130206 (fun t => t.olen == 0) := by decide +kernel
/-- K1, K2 -/
theorem test_b58cEnc : runs 0x52 (withBytes []) 2 (fun t => t.obuf == text "3QJmnh") ∧
    runs 0x52 (withBytes (bytes [0])) 2 (fun t => t.obuf == text "1Wh4bh") := by decide +kernel
/-- K3 -/
theorem test_b58cEnc_zeros : runs 0x52 (withBytes (List.replicate 21 0#8)) 2 fun t =>
    t.obuf == text "1111111111111111111114oLvT2" := by decide +kernel
/-- K5 -/
theorem test_b58cDec : runs 0x53 (withBytes (text "1HeqNjAst5TCQ63F7xhjg6bcTbDKrRk7sH")) 2 fun t =>
    t.olen == 21 && bigEndian t.obuf == 0xb6a9c8c230722b7c748331a8b450f05566dc7d0f := by decide +kernel
/-- K10, K12, K15: each check, in its order -/
theorem test_b58cDec_checks :
    runs 0x53 (withBytes (text "1HeqNjAst5TCQ63F7xhjg6bcTbDKrRk7s2")) 0x00150206 (fun t => t.olen == 0) ∧
    runs 0x53 (withBytes (text "111")) 0x00140206 (fun t => t.olen == 0) ∧
    runs 0x53 (withBytes (text "1A1zP1eP5QGefi2DMPTfTL5SLmv7DivfN0")) 0x00130206 (fun t => t.olen == 0) := by decide +kernel

/-! ### Host port, reset and scripts (E vectors, P4) -/

/-- E1, E10 -/
theorem test_status_words :
    Status.reset.word = 0x00000000 ∧ Status.reset.issued.word = 0x00000001 ∧ Status.reset.succeeded.word = 0x00000002 ∧
    (Status.failed .outOfBounds).word = 0x00010106 ∧ (Status.failed .capacity).word = 0x00040106 ∧
    (Status.failed .b58cBadChecksum).word = 0x00150206 := by decide
/-- E2, E3 -/
theorem test_illegal_command : runs 0x00 State.reset 0x00050106 (fun t => t.mem == State.reset.mem) ∧
    runs 0x16 State.reset 0x00050106 (fun t => t.mem == State.reset.mem) := by decide
/-- E6, E7: a success keeps the sticky bit, HostClearSticky clears it -/
theorem test_sticky_bit :
    runs 0x40 { State.reset with status := Status.failed .varintTruncated } 0x00000006 (fun t =>
      (hostStep .clearSticky t).status.word == 0x00000002) := by decide
/-- E8 -/
theorem test_dropped_while_busy : hostStep (.issue 0x20) (hostStep (.loadBuf 0 (text "x")) (hostStep (.writeArg 1 7)
    (inFlight State.reset 0x30))) = inFlight State.reset 0x30 := by decide +kernel
/-- E9 -/
theorem test_reset_abandons : resetBlock (inFlight (withRange (text "abc") 0 3) 0x30) = State.reset := by decide +kernel
/-- P4 on `00ff` and on `xyz!` -/
theorem test_parseHexOrB58 :
    (match parseHexOrB58 (text "00ff") State.reset with
      | .next (t, e) => decide (e = .bytes [0x00#8, 0xFF#8] ∧ t.status.word = 0x00000002) | _ => false) = true ∧
    (match parseHexOrB58 (text "xyz!") State.reset with
      | .next (t, e) => decide (e = .noValue ∧ t.status.word = 0x00130206) | _ => false) = true := by decide +kernel
/-- P1, step 4, as the script of R104, and the checks before it -/
theorem test_toAddress :
    (match toAddress (beBytes 20 0xb6a9c8c230722b7c748331a8b450f05566dc7d0f) 0 State.reset with
      | .next (_, e) => decide (e = .bytes (text "1HeqNjAst5TCQ63F7xhjg6bcTbDKrRk7sH")) | _ => false) = true ∧
    (match toAddress (letters 20) 256 State.reset with
      | .next (t, e) => decide (e = .failed .preconditionViolation ∧ t = State.reset) | _ => false) = true := by decide +kernel

/-! ### Witnesses: for each statement with hypotheses, states and operands that meet them, clause by clause -/

/-- A state whose status is idle after an error. -/
def afterError (d : ErrorDetail) : State := { State.reset with status := Status.failed d }

/-- A state with events still to come. -/
def scheduled (s : State) (es : List Event) : State := { s with schedule := es }

theorem witness_UnassignedWordsCompleteAsIllegalCommand :
    (∀ w ∈ [0x00#8, 0x0F#8, 0x16#8, 0x17#8, 0x1E#8, 0x1F#8, 0x26#8, 0x2F#8, 0x34#8, 0x3F#8, 0x42#8, 0x4F#8, 0x54#8, 0x5F#8,
      0x60#8, 0xFF#8], illegal w = true) ∧ State.reset.status.busy = false := by decide

theorem witness_StepRunsTheCommandInFlight :
    (inFlight State.reset 0x53).status.busy = true ∧ decodeWord (inFlight State.reset 0x53).cmd = .ok .b58cDec ∧
    (inFlight State.reset 0x53).schedule = [] ∧
    (scheduled (inFlight State.reset 0x53) [.complete, .reset]).schedule = .complete :: [.reset] := by decide

theorem witness_FetchWordIsRunByTheNextStep : decodeTableWord 8 0x10 = some .wr16be ∧ decodeTableWord 8 0x53 = some .b58cDec := by
  decide

theorem witness_StepPerformsTheScheduledEvent :
    (scheduled State.reset [.host .clearSticky, .complete]).schedule = .host .clearSticky :: [.complete] ∧
    (scheduled State.reset [.reset]).schedule = .reset :: [] ∧
    (scheduled (inFlight State.reset 0xFF) [.complete]).schedule = .complete :: [] ∧
    ((scheduled State.reset [.complete]).schedule = .complete :: [] ∧
      (scheduled State.reset [.complete]).status.busy = false) ∧
    State.reset.schedule = [] ∧ State.reset.status.busy = false := by decide

theorem witness_StatementRunsItsCommandOnItsOperands :
    (Stmt.mk .sha256d2 [(1, 0), (2, 1), (3, 0), (4, 5)]).wf = true ∧ (Stmt.mk .revb []).wf = true ∧
    0 ∉ Instr.sha256d2.argRegs ∧ State.reset.status.busy = false := by decide

theorem witness_HostWriteArgSetsOneRegisterWhenIdle :
    (0 ≤ 4 ∧ 4 ≤ 4 ∧ 3 ≠ 4) ∧ State.reset.status.busy = false ∧ (inFlight State.reset 0x20).status.busy = true := by decide

theorem witness_HostLoadBufReplacesABufferWhenIdle :
    ((withConfig 64 false []).status.busy = false ∧ (letters 64).length ≤ (withConfig 64 false []).cfg.bufCap) ∧
    (inFlight State.reset 0x20).status.busy = true ∧ (withConfig 64 false []).cfg.bufCap < (letters 65).length := by decide

theorem witness_HostIssueStartsACommandWhenIdle :
    State.reset.status.busy = false ∧ (inFlight State.reset 0x20).status.busy = true := by decide

/-- Each range of register numbers at its ends, and lengths that fit the 32-bit registers. -/
theorem witness_HostReadReturnsTheRegisterAndChangesNothing :
    (2 ≤ 2 ∧ 2 ≤ 6) ∧ (2 ≤ 6 ∧ 6 ≤ 6) ∧ (12 ≤ 12 ∧ 12 ≤ 15) ∧ (12 ≤ 15 ∧ 15 ≤ 15) ∧ 19 ≤ 19 ∧
    State.reset.len0 < 2 ^ 32 ∧ State.reset.len1 < 2 ^ 32 ∧ State.reset.olen < 2 ^ 32 := by decide

theorem witness_OperandStateIsLockedWhileBusy : (inFlight State.reset 0x20).status.busy = true := by decide

theorem witness_CompletionSucceedsOrChangesOnlyStatus : (inFlight State.reset 0x20).status.busy = true := by decide

/-- Every cause of R284 of a command, at the boundary of its check. -/
theorem witness_ErrorsAreThoseOfTheCauseTable_some :
    causeOf .wr16be (atOffset (bytes [0, 0]) 0 1) = some (1, 0x01) ∧
    causeOf .rd64le (atOffset (letters 8) 0 1) = some (1, 0x01) ∧
    causeOf .bitset (atOffset (bytes [0]) 0 8) = some (1, 0x01) ∧
    causeOf .sha256 (withRange (bytes [0]) 1 1) = some (1, 0x01) ∧
    causeOf .sha256d2 (withRanges (bytes [0]) (bytes [0]) 0 1 1 1) = some (1, 0x01) ∧
    causeOf .revdw (atOffset (bytes [0]) 0 0) = some (1, 0x02) ∧
    causeOf .revdw (atOffset (letters 4) 1 0) = some (1, 0x03) ∧
    causeOf .bin2hex (withConfig 64 false (letters 33)) = some (1, 0x04) ∧
    causeOf .b58Enc (withConfig 64 false (List.replicate 65 0#8)) = some (1, 0x04) ∧
    causeOf .b58cEnc (withConfig 64 false (List.replicate 64 0#8)) = some (1, 0x04) ∧
    causeOf .hex2bin (withBytes (text "0")) = some (2, 0x10) ∧ causeOf .hex2bin (withBytes (text "0g")) = some (2, 0x11) ∧
    causeOf .viDec (withBytes []) = some (2, 0x12) ∧ causeOf .viDec (withBytes (bytes [0xFD, 0])) = some (2, 0x12) ∧
    causeOf .b58Dec (withBytes (text "0")) = some (2, 0x13) ∧ causeOf .b58cDec (withBytes (text "0")) = some (2, 0x13) ∧
    causeOf .b58cDec (withBytes (text "111")) = some (2, 0x14) ∧
    causeOf .b58cDec (withBytes (text "1111")) = some (2, 0x15) := by decide +kernel

theorem witness_ErrorsAreThoseOfTheCauseTable_illegal :
    (inFlight State.reset 0xFF).status.busy = true ∧ illegal (inFlight State.reset 0xFF).cmd = true := by decide

/-- Every command succeeds on some operands, the last legal ones of its check. -/
theorem witness_ErrorsAreThoseOfTheCauseTable_none :
    (∀ i ∈ [Instr.wr16be, .wr16le, .rd16be, .rd16le], causeOf i (atOffset (letters 3) 0 1) = none) ∧
    (∀ i ∈ [Instr.wr32be, .wr32le, .rd32be, .rd32le], causeOf i (atOffset (letters 5) 0 1) = none) ∧
    (∀ i ∈ [Instr.wr64be, .wr64le, .rd64be, .rd64le], causeOf i (atOffset (letters 9) 0 1) = none) ∧
    (∀ i ∈ [Instr.bitchk, .bitset], causeOf i (atOffset (bytes [0]) 0 7) = none) ∧
    (∀ i ∈ [Instr.sha256, .sha256d], causeOf i (withRange (bytes [0]) 0 1) = none) ∧
    causeOf .sha256d2 (withRanges (bytes [0]) (bytes [0]) 1 0 0 1) = none ∧
    causeOf .revdw (atOffset (letters 4) 4 0) = none ∧ causeOf .revdw (atOffset (letters 4) 0xFFFFFFFFFFFFFFFF 0) = none ∧
    causeOf .bin2hex (withConfig 64 false (letters 32)) = none ∧
    causeOf .b58Enc (withConfig 64 false (List.replicate 64 0#8)) = none ∧ causeOf .b58cEnc (withBytes []) = none ∧
    causeOf .hex2bin (withBytes (text "00ff")) = none ∧ causeOf .viDec (withBytes (bytes [0xFC])) = none ∧
    causeOf .b58Dec (withBytes (text "2g")) = none ∧ causeOf .b58cDec (withBytes (text "3QJmnh")) = none ∧
    (∀ i ∈ [Instr.revb, .hash160, .viEnc], causeOf i State.reset = none) := by decide +kernel

theorem witness_FailureClassesOfTheCommands :
    (∃ t, exec .revb State.reset = .next t ∧ decide (t.status.kind = 0) = true) ∧
    (∃ t, exec .wr16be State.reset = .next t ∧ decide (t.status.kind = 1) = true) ∧
    (∃ t, exec .viDec State.reset = .next t ∧ decide (t.status.kind = 2) = true) :=
  ⟨exists_of_answers (by decide), exists_of_answers (by decide), exists_of_answers (by decide)⟩

/-- An address on each side of the stored bytes of each form that stores, and one for a form that stores nothing. -/
theorem witness_CommandsChangeOnlyTheirResultPlaces_addresses :
    (∀ i ∈ [Instr.wr16be, .wr16le], ∀ a ∈ [0, 3], ¬ storesAt i (atOffset (letters 11) 0 1) a) ∧
    (∀ i ∈ [Instr.wr32be, .wr32le], ∀ a ∈ [0, 5], ¬ storesAt i (atOffset (letters 11) 0 1) a) ∧
    (∀ i ∈ [Instr.wr64be, .wr64le], ∀ a ∈ [0, 9], ¬ storesAt i (atOffset (letters 11) 0 1) a) ∧
    (∀ a ∈ [0, 2], ¬ storesAt .bitset (atOffset (letters 3) 0 8) a) ∧ ¬ storesAt .revb (withBytes (letters 3)) 0 := by
  simp [storesAt, atOffset, withBytes]

theorem witness_CommandsChangeOnlyTheirResultPlaces :
    (∃ t, exec .viDec (withBytes (bytes [0xFC])) = .next t ∧ decide (t.res1 = 1) = true) ∧
    (Instr.viDec ∉ buf0Writers ∧ Instr.viDec ∉ obufWriters ∧ Instr.revb ∉ res0Writers ∧ Instr.revb ≠ .viDec) :=
  ⟨exists_of_answers (by decide), by decide⟩

/-- Two states that differ in everything REVB does not read. -/
theorem witness_ResultsDependOnOperandsAlone :
    agreeOnOperands .revb (withBytes (bytes [1, 2])) { atOffset (bytes [1, 2]) 7 9 with res0 := 5, cmd := 0x53 } ∧
    (∃ t, exec .revb (withBytes (bytes [1, 2])) = .next t ∧ decide (t.status.kind = 0) = true) ∧
    (∃ t, exec .revb { atOffset (bytes [1, 2]) 7 9 with res0 := 5, cmd := 0x53 } = .next t ∧
      decide (t.obuf = bytes [2, 1]) = true) ∧ Instr.revb ∈ obufWriters ∧ Instr.bitset ∈ buf0Writers ∧ Instr.viDec ∈ res0Writers :=
  ⟨by unfold agreeOnOperands; decide, exists_of_answers (by decide), exists_of_answers (by decide), by decide⟩

theorem witness_OnlyResetAndClearStickyClearTheStickyError :
    (∃ t, step (scheduled (afterError .capacity) [.host .clearSticky]) = .next t ∧ decide (t.status.estk = false) = true) ∧
    (afterError .capacity).status.estk = true ∧
    (∃ t, step (inFlight State.reset 0x40) = .next t ∧ decide (t.olen ≠ 0) = true) ∧
    (∃ t, step (inFlight (withBytes (bytes [7])) 0x41) = .next t ∧ decide (t.res0 ≠ 0 ∧ t.res1 ≠ 0) = true) ∧
    (scheduled State.reset [.reset]).schedule.head? = some .reset :=
  ⟨exists_of_answers (by decide), by decide, exists_of_answers (by decide), exists_of_answers (by decide), by decide⟩

theorem witness_ErrorCodesStayUntilTheNextIssue :
    (∃ t, step (scheduled (afterError .capacity) [.host (.loadBuf 0 [])]) = .next t ∧ decide (t.status.detail = 4) = true) ∧
    (afterError .capacity).status.busy = false ∧
    (scheduled (afterError .capacity) [.host (.loadBuf 0 [])]).schedule.head? ≠ some .reset ∧
    (∀ op, (scheduled (afterError .capacity) [.host (.loadBuf 0 [])]).schedule.head? ≠ some (.host (.issue op))) :=
  ⟨exists_of_answers (by decide), by decide, by decide, by simp [scheduled]⟩

theorem witness_StepKeepsTheMachineInvariant :
    State.Inv (inFlight (withBytes (text "2g")) 0x51) ∧
    (∃ t, step (inFlight (withBytes (text "2g")) 0x51) = .next t ∧ decide (t.obuf = bytes [0x61]) = true) :=
  ⟨⟨by decide, by decide, by decide⟩, exists_of_answers (by decide +kernel)⟩

theorem witness_ParametersNeverChange :
    ∃ t, step (scheduled (withConfig 64 true []) [.reset]) = .next t ∧ decide (t.cfg = { bufCap := 64, hexUpperOk := true }) = true :=
  exists_of_answers (by decide)

theorem witness_InstancesShareNothing :
    [State.reset, inFlight State.reset 0x40][1]? = some (inFlight State.reset 0x40) ∧ 0 ≠ 1 := by decide

/-- Both clauses of each width at the boundary, and an address on each side of the stored bytes. -/
theorem witness_WriteCommandsStoreTheLowBytes :
    (∀ r ∈ wrRows, (atOffset (letters r.width) 0 1).arg1.toNat + r.width > (atOffset (letters r.width) 0 1).len0) ∧
    (∀ r ∈ wrRows, (atOffset (letters (r.width + 1)) 0 1).arg1.toNat + r.width ≤ (atOffset (letters (r.width + 1)) 0 1).len0) ∧
    (∀ r ∈ wrRows, 0 < (atOffset [] 0 1).arg1.toNat ∧ (atOffset [] 0 1).arg1.toNat + r.width ≤ 1 + r.width) := by decide

theorem witness_ReadCommandsLoadTheBytes :
    (∀ r ∈ rdRows, (atOffset (letters r.width) 0 1).arg1.toNat + r.width > (atOffset (letters r.width) 0 1).len0) ∧
    (∀ r ∈ rdRows, (atOffset (letters (r.width + 1)) 0 1).arg1.toNat + r.width ≤ (atOffset (letters (r.width + 1)) 0 1).len0) := by
  decide

theorem witness_ReadsAndWritesAreInverse :
    (∀ p ∈ pairRows, (atOffset (letters p.2.2) 0x0102030405060708 0).arg1.toNat + p.2.2 ≤
      (atOffset (letters p.2.2) 0x0102030405060708 0).len0) ∧
    (∀ p ∈ orderRows, (atOffset (letters p.2.2) 0x0102030405060708 0).arg1.toNat + p.2.2 ≤
      (atOffset (letters p.2.2) 0x0102030405060708 0).len0) := by decide

theorem witness_RevbReversesTheBuffer : 0 < (withBytes (bytes [1])).len0 := by decide

theorem witness_RevdwReversesEachGroup :
    (withBytes (letters 6)).len0 % 4 ≠ 0 ∧
    ((atOffset (letters 8) 6 0).len0 % 4 = 0 ∧ 0 ≤ (atOffset (letters 8) 6 0).arg0.toInt ∧
      (atOffset (letters 8) 6 0).arg0.toInt % 4 ≠ 0) ∧
    ((atOffset (letters 8) 0xFFFFFFFFFFFFFFFF 0).len0 % 4 = 0 ∧ (atOffset (letters 8) 0xFFFFFFFFFFFFFFFF 0).arg0.toInt < 0) ∧
    ((atOffset (letters 8) 0 0).arg0.toInt % 4 = 0 ∧ 0 ≤ (atOffset (letters 8) 0 0).arg0.toInt) := by decide

theorem witness_RevdwTwiceIsTheIdentity :
    (atOffset (letters 8) 0xFFFFFFFFFFFFFFFF 0).len0 % 4 = 0 ∧ (atOffset (letters 8) 0xFFFFFFFFFFFFFFFF 0).arg0.toInt < 0 := by
  decide

theorem witness_BitchkReadsOneBit :
    (atOffset (bytes [0x80]) 0 8).arg1.toNat / 8 ≥ (atOffset (bytes [0x80]) 0 8).len0 ∧
    (atOffset (bytes [0x80]) 0 7).buf0[(atOffset (bytes [0x80]) 0 7).arg1.toNat / 8]? = some 0x80#8 := by decide

theorem witness_BitsetSetsOneBit :
    (atOffset (bytes [0, 0]) 0 16).arg1.toNat / 8 ≥ (atOffset (bytes [0, 0]) 0 16).len0 ∧
    (atOffset (bytes [0, 0]) 0 15).buf0[(atOffset (bytes [0, 0]) 0 15).arg1.toNat / 8]? = some 0x00#8 ∧
    0 ≠ (atOffset (bytes [0, 0]) 0 15).arg1.toNat / 8 := by decide

theorem witness_BitchkAfterBitset :
    (atOffset (bytes [0]) 0 7).arg1.toNat / 8 < (atOffset (bytes [0]) 0 7).len0 ∧
    (6 : Word).toNat / 8 < (atOffset (bytes [0]) 0 7).len0 ∧ (7 : Word).toNat / 8 < (atOffset (bytes [0]) 0 7).len0 := by decide

theorem witness_Hex2binReadsPairsOfDigits :
    (withBytes (text "0")).len0 % 2 = 1 ∧
    ((withBytes (text "0G")).len0 % 2 = 0 ∧ ∃ c ∈ (withBytes (text "0G")).buf0, hexDigit false c = none) ∧
    ((withBytes (text "9a")).len0 % 2 = 0 ∧ (∀ c ∈ (withBytes (text "9a")).buf0, hexDigit false c ≠ none) ∧
      (withBytes (text "9a")).buf0[0]? = some 0x39#8 ∧ (withBytes (text "9a")).buf0[1]? = some 0x61#8 ∧
      hexDigit false 0x39#8 = some 9 ∧ hexDigit false 0x61#8 = some 10) ∧
    hexDigit true 0x46#8 = some 15 ∧ hexDigit false 0x46#8 = none := by decide +kernel

theorem witness_Bin2hexWritesTwoDigitsPerByte :
    2 * (withConfig 64 false (letters 33)).len0 > (withConfig 64 false (letters 33)).cfg.bufCap ∧
    2 * (withConfig 64 false (letters 32)).len0 ≤ (withConfig 64 false (letters 32)).cfg.bufCap ∧
    (withConfig 64 false (letters 32)).buf0[31]? = some 0x61#8 := by decide

theorem witness_HexRoundTrips :
    2 * (withConfig 64 false (letters 32)).len0 ≤ (withConfig 64 false (letters 32)).cfg.bufCap ∧
    (withConfig 64 true (text "aF")).len0 ≤ (withConfig 64 true (text "aF")).cfg.bufCap ∧
    (∃ t, exec .hex2bin (withConfig 64 true (text "aF")) = .next t ∧ decide (t.status.kind = 0) = true) ∧
    (∃ t, exec .hex2bin (withBytes (text "af")) = .next t ∧ decide (t.status.kind = 0) = true) ∧
    (∀ c ∈ (withBytes (text "af")).buf0, c ∉ text "ABCDEF") :=
  ⟨by decide, by decide, exists_of_answers (by decide +kernel), exists_of_answers (by decide +kernel), by decide +kernel⟩

theorem witness_DigestCommandsHashTheRange :
    (withRange (text "abc") 1 3).arg1.toNat + (withRange (text "abc") 1 3).arg2.toNat > (withRange (text "abc") 1 3).len0 ∧
    (withRange (text "abc") 1 2).arg1.toNat + (withRange (text "abc") 1 2).arg2.toNat ≤ (withRange (text "abc") 1 2).len0 := by
  decide +kernel

theorem witness_Sha256d2HashesTheConcatenation :
    (1 + 0 ≤ (withRanges (bytes [1]) (bytes [2]) 1 0 0 1).len0 ∧ 0 + 1 ≤ (withRanges (bytes [1]) (bytes [2]) 1 0 0 1).len1) ∧
    ((withRanges (bytes [1]) (bytes [2]) 1 1 0 1).arg1.toNat + (withRanges (bytes [1]) (bytes [2]) 1 1 0 1).arg2.toNat >
      (withRanges (bytes [1]) (bytes [2]) 1 1 0 1).len0) ∧
    ((withRange (bytes [2]) 0 1).buf0 = bytes [2] ∧ (withRange (bytes [2]) 0 1).arg1 = 0 ∧
      (withRange (bytes [2]) 0 1).arg2.toNat = (bytes [2]).length) := by decide

theorem witness_PaddingFillsWholeBlocks : (letters 56).length < 2 ^ 61 ∧ (letters 55).length < 2 ^ 61 := by decide

/-- The working variables on the block of 64 zero bytes, whose message words are all 0. -/
def zeroRounds : Nat → Sha256Regs
  | 0 => shaInit
  | n + 1 => shaRound (zeroRounds n) (shaK.getD n 0) 0

theorem witness_Sha256BlockFollowsTheRecurrences :
    (List.replicate 64 0x00#8).length = 64 ∧ Sha256Trace shaInit (List.replicate 64 0x00#8) (fun _ => 0) zeroRounds where
  left := by decide
  right :=
    { first := by decide
      later := fun _ _ _ => by decide
      start := rfl
      round := fun t _ T1 T2 h1 h2 => by subst h1 h2; rfl }

/-- The chaining values of the two blocks of the padding of 56 bytes. -/
def chain (m : Bytes) : Nat → Sha256Regs
  | 0 => shaInit
  | n + 1 => shaBlock (chain m n) (((pad256 m).drop (64 * n)).take 64)

theorem witness_Sha256ChainsTheBlocks :
    chain (letters 56) 0 = shaInit ∧
    ∀ i, chain (letters 56) (i + 1) = shaBlock (chain (letters 56) i) (((pad256 (letters 56)).drop (64 * i)).take 64) :=
  ⟨rfl, fun _ => rfl⟩

/-- A line of RIPEMD-160 on the block of 64 zero bytes. -/
def zeroLine (fn : Nat → Nat) (k : Nat → W32) (r : Nat → Nat) : Nat → RmdRegs
  | 0 => rmdInit
  | j + 1 => rmdStep (zeroLine fn k r j) (fn j) 0 (k j) (r j)

theorem witness_Ripemd160BlockFollowsTheRecurrences :
    (∀ i < 16, ((fun _ => 0 : Nat → W32) i).toNat = bigEndian (((List.replicate 64 0x00#8).drop (4 * i)).take 4).reverse) ∧
    RmdTrace rmdInit (zeroLine (fun j => j) (fun j => rmdKL.getD (j / 16) 0) (fun j => rmdSL.getD j 0)) (fun j => j)
      (fun _ => 0) (fun j => rmdKL.getD (j / 16) 0) (fun j => rmdSL.getD j 0) ∧
    RmdTrace rmdInit (zeroLine (fun j => 79 - j) (fun j => rmdKR.getD (j / 16) 0) (fun j => rmdSR.getD j 0)) (fun j => 79 - j)
      (fun _ => 0) (fun j => rmdKR.getD (j / 16) 0) (fun j => rmdSR.getD j 0) :=
  ⟨by decide, ⟨rfl, fun _ _ => rfl⟩, ⟨rfl, fun _ _ => rfl⟩⟩

/-- The chaining values of the blocks of the RIPEMD-160 padding of a message. -/
def chain160 (m : Bytes) : Nat → RmdRegs
  | 0 => rmdInit
  | n + 1 => rmdBlock (chain160 m n) (((pad160 m).drop (64 * n)).take 64)

theorem witness_Ripemd160ChainsTheBlocks :
    chain160 (letters 56) 0 = rmdInit ∧
    ∀ i, chain160 (letters 56) (i + 1) = rmdBlock (chain160 (letters 56) i) (((pad160 (letters 56)).drop (64 * i)).take 64) :=
  ⟨rfl, fun _ => rfl⟩

/-- Both ends of each range of values. -/
theorem witness_ViEncChoosesTheShortestForm :
    (0xFC : Word).toNat < 0xFD ∧ (0xFD ≤ (0xFD : Word).toNat ∧ (0xFFFF : Word).toNat ≤ 0xFFFF) ∧
    (0x10000 ≤ (0x10000 : Word).toNat ∧ (0xFFFFFFFF : Word).toNat ≤ 0xFFFFFFFF) ∧
    0x100000000 ≤ (0x100000000 : Word).toNat := by decide

theorem witness_ViDecReadsTheImpliedForm :
    (withBytes []).buf0 = [] ∧
    ((withBytes (bytes [0xFD, 0])).buf0[0]? = some 0xFD#8 ∧ (withBytes (bytes [0xFD, 0])).len0 < impliedLength 0xFD#8) ∧
    ((withBytes (bytes [0xFE, 1, 2, 3, 4])).buf0[0]? = some 0xFE#8 ∧ impliedLength 0xFE#8 ≤ 5 ∧ 1 < impliedLength 0xFE#8) ∧
    ((withBytes (bytes [0xFC])).buf0[0]? = some 0xFC#8 ∧ impliedLength 0xFC#8 = 1) := by decide

theorem witness_B58EncWritesTheDigits :
    (∃ t, exec .b58Enc (withConfig 64 false (List.replicate 64 0#8)) = .next t ∧ decide (t.status.kind = 0) = true) ∧
    (∃ t, exec .b58Enc (withConfig 64 false (List.replicate 65 0#8)) = .next t ∧ decide (t.status.kind = 1) = true) :=
  ⟨exists_of_answers (by decide +kernel), exists_of_answers (by decide +kernel)⟩

theorem witness_B58DecReadsTheDigits :
    (∃ c ∈ (withBytes (text "2gO")).buf0, c ∉ alphabet) ∧
    ((∀ d ∈ [39, 1], d < 58) ∧ (withBytes (text "2g")).buf0 = ([39, 1].map fun d => alphabet.getD d 0).reverse) ∧
    ((∀ d ∈ [57, 0], d < 58) ∧ (withBytes (text "1z")).buf0 = ([57, 0].map fun d => alphabet.getD d 0).reverse) := by
  decide +kernel

theorem witness_Base58RoundTrips :
    (∃ t, exec .b58Enc (withBytes (bytes [0, 1])) = .next t ∧ decide (t.status.kind = 0) = true) ∧
    (∀ c ∈ (withConfig 64 false (List.replicate 64 0x31#8)).buf0, c ∈ alphabet) ∧
    (withConfig 64 false (List.replicate 64 0x31#8)).len0 ≤ (withConfig 64 false (List.replicate 64 0x31#8)).cfg.bufCap :=
  ⟨exists_of_answers (by decide +kernel), by decide +kernel, by decide⟩

/-- Four leading zero bytes. -/
theorem witness_LeadingZeroBytesBecomeLeadingOnes :
    ∃ t, exec .b58Enc (withBytes (bytes [0, 0, 0, 0, 1, 2])) = .next t ∧
      decide (t.status.kind = 0 ∧ leading 0x31#8 t.obuf = 4) = true := exists_of_answers (by decide +kernel)

theorem witness_B58cEncEncodesPayloadAndChecksum :
    (∃ t, exec .b58cEnc (withBytes []) = .next t ∧ decide (t.status.kind = 0) = true) ∧
    (∃ t, exec .b58cEnc (withConfig 64 false (List.replicate 64 0#8)) = .next t ∧ decide (t.status.kind = 1) = true) :=
  ⟨exists_of_answers (by decide +kernel), exists_of_answers (by decide +kernel)⟩

theorem b58Dec_answers {s : State} {d : Bytes} (h : base58Decode s.buf0 = some d) :
    exec .b58Dec s = .next (done (withObuf s d)) := by
  simp only [exec, execB58Dec, h]; rfl

/-- K10 to K15: a character outside the alphabet, three bytes, four bytes with a wrong checksum, four with the right one. -/
theorem witness_B58cDecVerifiesTheChecksum :
    (∃ c ∈ (withBytes (text "0")).buf0, c ∉ alphabet) ∧
    (exec .b58Dec (withBytes (text "111")) = .next (done (withObuf (withBytes (text "111")) (bytes [0, 0, 0]))) ∧
      (bytes [0, 0, 0]).length < 4) ∧
    (exec .b58Dec (withBytes (text "1111")) = .next (done (withObuf (withBytes (text "1111")) ([] ++ bytes [0, 0, 0, 0]))) ∧
      (bytes [0, 0, 0, 0]).length = 4 ∧ (sha256Digest (sha256Digest [])).take 4 ≠ bytes [0, 0, 0, 0]) ∧
    (exec .b58Dec (withBytes (text "3QJmnh")) =
        .next (done (withObuf (withBytes (text "3QJmnh")) ([] ++ bytes [0x5D, 0xF6, 0xE0, 0xE2]))) ∧
      (sha256Digest (sha256Digest [])).take 4 = bytes [0x5D, 0xF6, 0xE0, 0xE2]) :=
  ⟨by decide +kernel, ⟨b58Dec_answers (by decide +kernel), by decide⟩,
    ⟨b58Dec_answers (by decide +kernel), by decide, by decide +kernel⟩,
    ⟨b58Dec_answers (by decide +kernel), by decide +kernel⟩⟩

theorem witness_Base58CheckRoundTrips :
    ∃ t, exec .b58cEnc (withBytes (bytes [0])) = .next t ∧ decide (t.status.kind = 0) = true :=
  exists_of_answers (by decide +kernel)

theorem witness_ParsedAddressIsTheOneBuilt :
    State.reset.status.busy = false ∧ (withConfig 64 false []).cfg.wf = true ∧ (letters 20).length = 20 ∧
    (0 : Int) ≤ 0 ∧ (255 : Int) ≤ 255 := by decide

/-- P4 on `00ff`, on an address, and on `xyz!`. -/
theorem witness_HexOrBase58TriesHexFirst :
    (text "00ff").length ≤ State.reset.cfg.bufCap ∧ causeOf .hex2bin (withBuf0 State.reset (text "00ff")) = none ∧
    causeOf .hex2bin (withBuf0 State.reset (text "3QJmnh")) ≠ none ∧
    causeOf .b58cDec (withBuf0 State.reset (text "3QJmnh")) = none ∧
    causeOf .hex2bin (withBuf0 State.reset (text "xyz!")) ≠ none ∧
    causeOf .b58cDec (withBuf0 State.reset (text "xyz!")) ≠ none := by decide +kernel

end Sys2Proof.Tests
end

section
/-! SUPPORT. The host port's effects per operation (spec/10_state.md R40 to R42, R46), and what a block that is BUSY keeps
whatever the host does (R43). -/

namespace Sys2Proof.Machine

variable (s : State)

/-! ### Each operation, dropped or taken -/

theorem hostStep_writeArg_of_busy (i : Nat) (v : Word) (hb : s.status.busy = true) : hostStep (.writeArg i v) s = s := by
  simp [hostStep, hostWriteArg, hb]

theorem hostStep_writeArg_of_idle (i : Nat) (v : Word) (hb : s.status.busy = false) :
    hostStep (.writeArg i v) s = s.setArg i v := by
  simp [hostStep, hostWriteArg, hb]

theorem hostStep_loadBuf_of_busy_or_too_long (n : Nat) (b : Bytes) (h : s.status.busy = true ∨ s.cfg.bufCap < b.length) :
    hostStep (.loadBuf n b) s = s := by
  obtain hb | hl := h
  · simp [hostStep, hostLoadBuf, hb]
  · simp [hostStep, hostLoadBuf, hl]

theorem hostStep_loadBuf_zero_of_idle (b : Bytes) (hb : s.status.busy = false) (hl : b.length ≤ s.cfg.bufCap) :
    hostStep (.loadBuf 0 b) s = s.setBuf0 b := by
  simp [hostStep, hostLoadBuf, hb, Nat.not_lt.2 hl]

theorem hostStep_loadBuf_one_of_idle (b : Bytes) (hb : s.status.busy = false) (hl : b.length ≤ s.cfg.bufCap) :
    hostStep (.loadBuf 1 b) s = s.setBuf1 b := by
  simp [hostStep, hostLoadBuf, hb, Nat.not_lt.2 hl]

theorem hostStep_issue_of_busy (op : BitVec 8) (hb : s.status.busy = true) : hostStep (.issue op) s = s := by
  simp [hostStep, hostIssue, hb]

theorem hostStep_issue_of_idle (op : BitVec 8) (hb : s.status.busy = false) :
    hostStep (.issue op) s = (s.setCmd op).setStatus s.status.issued := by
  simp [hostStep, hostIssue, hb]

theorem hostStep_clearSticky : hostStep .clearSticky s = s.setStatus s.status.stickyCleared := rfl

/-- A write of an ARG register writes nothing but ARG registers. -/
theorem State.setArg_eq_update_args (i : Nat) (v : Word) :
    s.setArg i v = { s with arg0 := (s.setArg i v).arg0, arg1 := (s.setArg i v).arg1, arg2 := (s.setArg i v).arg2,
                            arg3 := (s.setArg i v).arg3, arg4 := (s.setArg i v).arg4 } := by
  ext1 <;> simp

/-! ### While BUSY -/

/-- While BUSY, a host operation can change nothing of the block but ESTK: writes are dropped, only HostRead (which adds
to the host's record) and HostClearSticky are taken. -/
theorem hostStep_of_busy (op : HostOp) (hb : s.status.busy = true) :
    ∃ estk reads, hostStep op s = { s with status := { s.status with estk := estk }, hostReads := reads } := by
  cases op with
  | writeArg i v => exact ⟨s.status.estk, s.hostReads, hostStep_writeArg_of_busy s i v hb⟩
  | loadBuf n b => exact ⟨s.status.estk, s.hostReads, hostStep_loadBuf_of_busy_or_too_long s n b (.inl hb)⟩
  | issue w => exact ⟨s.status.estk, s.hostReads, hostStep_issue_of_busy s w hb⟩
  | read r => exact ⟨s.status.estk, readRegister s r :: s.hostReads, rfl⟩
  | clearSticky => exact ⟨false, s.hostReads, rfl⟩

theorem performAll_host_cons (op : HostOp) (rest : List Event) :
    performAll (.host op :: rest) s = performAll rest (hostStep op s) := rfl

/-- While BUSY, no list of host operations changes anything of the block but ESTK. -/
theorem performAll_host_of_busy (ops : List HostOp) (hb : s.status.busy = true) :
    ∃ estk reads, performAll (ops.map .host) s =
      .next { s with status := { s.status with estk := estk }, hostReads := reads } := by
  induction ops generalizing s with
  | nil => exact ⟨s.status.estk, s.hostReads, rfl⟩
  | cons op ops ih =>
    obtain ⟨e, r, hstep⟩ := hostStep_of_busy s op hb
    rw [List.map_cons, performAll_host_cons, hstep]
    exact ih _ hb

end Sys2Proof.Machine
end

section
/-! PROOFS. The statements about the host port and the lock on a BUSY block (spec/10_state.md R40 to R43, R46). -/

namespace Sys2Proof.Proofs

open Sys2Proof Sys2Proof.Machine

/-- Settles O14, by induction on the list of operations: only ESTK and the host's record can have changed. -/
theorem operandStateIsLockedWhileBusy : Obligations.OperandStateIsLockedWhileBusy := by
  intro ops s hb
  obtain ⟨estk, reads, hrun⟩ := performAll_host_of_busy s ops hb
  exact ⟨_, hrun, hb, rfl, fun _ => rfl, rfl, rfl, rfl⟩

/-- Settles O8, by what `setArg` does to the register it names and to the others. -/
theorem hostWriteArgSetsOneRegisterWhenIdle : Obligations.HostWriteArgSetsOneRegisterWhenIdle := by
  intro s i v hi
  refine ⟨hostStep_writeArg_of_busy s i v, fun hb => ⟨s.setArg i v, hostStep_writeArg_of_idle s i v hb, ?_, ?_, ?_⟩⟩
  · exact State.arg_setArg_same s i v hi
  · exact fun j hj => State.arg_setArg_other s i j v hj
  · exact State.setArg_eq_update_args s i v

/-- Settles O9. -/
theorem hostLoadBufReplacesABufferWhenIdle : Obligations.HostLoadBufReplacesABufferWhenIdle := by
  intro s b
  constructor
  · rintro ⟨hb, hl⟩
    exact ⟨hostStep_loadBuf_zero_of_idle s b hb hl, hostStep_loadBuf_one_of_idle s b hb hl⟩
  · intro hdrop
    exact ⟨hostStep_loadBuf_of_busy_or_too_long s 0 b hdrop, hostStep_loadBuf_of_busy_or_too_long s 1 b hdrop⟩

/-- Settles O10. -/
theorem hostIssueStartsACommandWhenIdle : Obligations.HostIssueStartsACommandWhenIdle := by
  intro s op
  exact ⟨hostStep_issue_of_idle s op, hostStep_issue_of_busy s op⟩

/-- Settles O12. -/
theorem hostClearStickyClearsOnlyTheStickyBit : Obligations.HostClearStickyClearsOnlyTheStickyBit :=
  hostStep_clearSticky

end Sys2Proof.Proofs
end

section
/-! SUPPORT. What the decoder accepts (spec/30_encoding.md R90 to R92, R98): a word decodes to a command exactly when it
is the word of that command, and the illegal words of R98 are no command's; what an accepted issue followed by the
block's turn does. -/

namespace Sys2Proof.Machine

/-! ### The fields of a command word -/

/-- The two fields of format C8 are the whole word: all 8 bits are matched (R90). -/
theorem unitField_append_fnField (w : BitVec 8) : unitField w ++ fnField w = w := by
  rw [unitField, fnField, BitVec.extractLsb'_append_extractLsb'_eq_extractLsb' (by rfl), BitVec.extractLsb'_eq_self]

/-- Two words with the same fields are the same word. -/
theorem eq_of_fields_eq {v w : BitVec 8} (hunit : unitField v = unitField w) (hfn : fnField v = fnField w) : v = w := by
  rw [← unitField_append_fnField v, hunit, hfn, unitField_append_fnField]

/-- The three fields of a unit 1 function number are the whole number (R91). -/
theorem byteorderFields_append (fn : BitVec 4) :
    BitVec.ofBool (fn.getLsbD 3) ++ fn.extractLsb' 1 2 ++ BitVec.ofBool (fn.getLsbD 0) = fn := by
  revert fn; decide

/-- Two function numbers of unit 1 with the same width code and the same two flag bits are the same number. -/
theorem eq_of_byteorderFields_eq {f g : BitVec 4} (hwidth : (f.extractLsb' 1 2).toNat = (g.extractLsb' 1 2).toNat)
    (hread : f.getLsbD 3 = g.getLsbD 3) (hlittle : f.getLsbD 0 = g.getLsbD 0) : f = g := by
  rw [← byteorderFields_append f, BitVec.eq_of_toNat_eq hwidth, hread, hlittle, byteorderFields_append]

/-! ### Decoding against encoding -/

theorem decodeWord_encode (i : Instr) : decodeWord (encode i) = .ok i := by cases i <;> rfl

/-- What unit 1 decodes is a command of unit 1 with that function number. -/
theorem fields_of_decodeByteorder {fn : BitVec 4} {i : Instr} (h : decodeByteorder fn = .ok i) :
    (unitField (encode i)).toNat = 1 ∧ fnField (encode i) = fn := by
  unfold decodeByteorder at h
  split at h <;> cases h <;> rename_i hlittle hread hwidth
  all_goals exact ⟨rfl, (eq_of_byteorderFields_eq hlittle hread hwidth).symm⟩

/-- What a unit with plain function numbers decodes is a command of that unit with that function number. -/
theorem fields_of_decodePlain {unit fn : BitVec 4} {i : Instr} (h : decodePlain unit fn = .ok i) :
    unitField (encode i) = unit ∧ fnField (encode i) = fn := by
  unfold decodePlain at h
  split at h <;> cases h <;> rename_i hunit hfn
  all_goals exact ⟨(BitVec.eq_of_toNat_eq hunit).symm, (BitVec.eq_of_toNat_eq hfn).symm⟩

/-- A word that decodes has the fields of its command's word. -/
theorem fields_of_decodeWord {w : BitVec 8} {i : Instr} (h : decodeWord w = .ok i) :
    unitField (encode i) = unitField w ∧ fnField (encode i) = fnField w := by
  unfold decodeWord at h
  split at h
  case h_1 hunit =>
    obtain ⟨hone, hfn⟩ := fields_of_decodeByteorder h
    exact ⟨BitVec.eq_of_toNat_eq (hone.trans hunit.symm), hfn⟩
  case h_6 => cases h
  all_goals exact fields_of_decodePlain h

/-- A word decodes to a command exactly when it is that command's word (R92, R98). -/
theorem decodeWord_eq_ok_iff (w : BitVec 8) (i : Instr) : decodeWord w = .ok i ↔ w = encode i := by
  constructor
  · intro h
    obtain ⟨hunit, hfn⟩ := fields_of_decodeWord h
    exact (eq_of_fields_eq hunit hfn).symm
  · rintro rfl
    exact decodeWord_encode i

/-! ### The opcode map and the illegal words -/

/-- The rows of the opcode map are the commands beside their words (R92). -/
theorem mem_assigned_iff (w : BitVec 8) (i : Instr) : (w, i) ∈ Spec.assigned ↔ w = encode i := by
  cases i <;> simp [Spec.assigned, encode]

/-- No command's word is in a range of illegal words (R98). -/
theorem illegal_encode (i : Instr) : Spec.illegal (encode i) = false := by cases i <;> decide

/-- An illegal word does not decode (R98). -/
theorem decodeWord_of_illegal {w : BitVec 8} (h : Spec.illegal w = true) : ∃ e, decodeWord w = .error e := by
  cases hd : decodeWord w with
  | error e => exact ⟨e, rfl⟩
  | ok i =>
    rw [(decodeWord_eq_ok_iff w i).1 hd, illegal_encode] at h
    cases h

/-! ### An issue followed by the block's turn -/

variable (s : State)

theorem performAll_singleton (e : Event) : performAll [e] s = perform e s := by
  rw [performAll]
  cases perform e s <;> rfl

/-- On an idle block an issue is accepted, and the block's turn then finds the word in flight (R42, R44). -/
theorem performAll_issue_complete_of_idle (op : BitVec 8) (hb : s.status.busy = false) :
    performAll [.host (.issue op), .complete] s = complete ((s.setCmd op).setStatus s.status.issued) := by
  rw [performAll_host_cons, hostStep_issue_of_idle s op hb, performAll_singleton]
  rfl

/-- A word in flight that is no command's completes as ILLEGAL_COMMAND (spec/60_exceptions.md R285). -/
theorem complete_of_decode_error {e : DecodeReject} (hb : s.status.busy = true) (hd : decodeWord s.cmd = .error e) :
    complete s = raise .illegalCommand s := by
  simp [complete, completeInFlight, hb, hd]

end Sys2Proof.Machine
end

section
/-! PROOFS. The statements about the opcode map and the unassigned words (spec/30_encoding.md R92, R98;
spec/60_exceptions.md R285). -/

namespace Sys2Proof.Proofs

open Sys2Proof Sys2Proof.Machine Sys2Proof.Spec

/-- The ranges of R98 hold 228 of the 256 words. -/
theorem length_illegal_words : ((List.range 256).filter fun n => illegal (BitVec.ofNat 8 n)).length = 228 := by
  decide +kernel

/-- Settles O3: the issued word decodes to no command, so its completion is the one error operation for
ILLEGAL_COMMAND at the state the issue leaves. -/
theorem unassignedWordsCompleteAsIllegalCommand : Obligations.UnassignedWordsCompleteAsIllegalCommand := by
  refine ⟨length_illegal_words, fun s op hillegal hidle => ?_⟩
  obtain ⟨e, hd⟩ := decodeWord_of_illegal hillegal
  calc performAll [.host (.issue op), .complete] s
      = complete ((s.setCmd op).setStatus s.status.issued) := performAll_issue_complete_of_idle s op hidle
    _ = raise .illegalCommand ((s.setCmd op).setStatus s.status.issued) := complete_of_decode_error _ rfl hd
    _ = .next (failed { s with cmd := op } 1 0x05) := rfl

/-- Settles O1: both the decoder and the map pair a command with its own word and with no other. -/
theorem opcodeMapIsDecoded : Obligations.OpcodeMapIsDecoded :=
  ⟨rfl, fun w i => (decodeWord_eq_ok_iff w i).trans (mem_assigned_iff w i).symm⟩

end Sys2Proof.Proofs
end

section
/-! SUPPORT. The rows of the BYTEORDER unit against its access operations (spec/40_byteorder.md R120 to R133): every row
is `writeInteger` or `readInteger` at its width and byte order, and byte `j` of an encoded integer is the byte of the
row's place `j`. -/

namespace Sys2Proof.Spec

open Sys2Proof.Machine

/-! ### The byte order of a row -/

/-- The encoder of a row's byte order (spec/00_scope.md R12). -/
def AccessRow.encoder (r : AccessRow) : Nat → Nat → Bytes := if r.big then beBytes else leBytes

/-- The decoder of a row's byte order (R12). -/
def AccessRow.decoder (r : AccessRow) : Bytes → Nat := if r.big then fromBE else fromLE

namespace AccessRow

variable (r : AccessRow)

@[simp] theorem length_encoder (n v : Nat) : (r.encoder n v).length = n := by
  unfold encoder
  split <;> simp

/-- Byte `j` of an encoded word is its byte number `place j`. -/
theorem getElem?_encoder (v : Word) {j : Nat} (hj : j < r.width) :
    (r.encoder r.width v.toNat)[j]? = some (v.extractLsb' (8 * r.place j) 8) := by
  unfold encoder place
  split
  · exact getElem?_beBytes _ _ _ hj
  · exact getElem?_leBytes _ _ _ hj

/-- The encoder sees only the low `8n` bits of the integer. -/
theorem encoder_mod (n v : Nat) : r.encoder n (v % 2 ^ (8 * n)) = r.encoder n v := by
  rw [Nat.pow_mul, encoder]
  split
  · exact beBytes_mod n v
  · exact leBytes_mod n v

theorem encoder_decoder (b : Bytes) : r.encoder b.length (r.decoder b) = b := by
  unfold encoder decoder
  split
  · exact beBytes_fromBE b
  · exact leBytes_fromLE b

theorem decoder_lt (b : Bytes) : r.decoder b < 2 ^ (8 * b.length) := by
  rw [Nat.pow_mul, decoder]
  split
  · exact fromBE_lt b
  · exact fromLE_lt b

/-- A word holds any integer decoded from at most 8 bytes. -/
theorem toNat_ofNat_decoder {b : Bytes} (hb : b.length ≤ 8) : (BitVec.ofNat 64 (r.decoder b)).toNat = r.decoder b := by
  have hlt : r.decoder b < 2 ^ 64 := (r.decoder_lt b).trans_le (Nat.pow_le_pow_right (by decide) (by omega))
  rw [BitVec.toNat_ofNat, Nat.mod_eq_of_lt hlt]

end AccessRow

/-! ### What the rows say of the commands -/

variable {r : AccessRow} (s : State)

theorem decodeWord_of_mem_wrRows (hr : r ∈ wrRows) : decodeWord r.word = .ok r.instr :=
  (decodeWord_eq_ok_iff _ _).2 ((by decide : ∀ r ∈ wrRows, r.word = encode r.instr) r hr)

theorem decodeWord_of_mem_rdRows (hr : r ∈ rdRows) : decodeWord r.word = .ok r.instr :=
  (decodeWord_eq_ok_iff _ _).2 ((by decide : ∀ r ∈ rdRows, r.word = encode r.instr) r hr)

theorem width_le_of_mem_rdRows (hr : r ∈ rdRows) : r.width ≤ 8 :=
  (by decide : ∀ r ∈ rdRows, r.width ≤ 8) r hr

theorem exec_of_mem_wrRows (hr : r ∈ wrRows) : exec r.instr s = writeInteger r.width r.encoder s := by
  fin_cases hr <;> rfl

theorem exec_of_mem_rdRows (hr : r ∈ rdRows) : exec r.instr s = readInteger r.width r.decoder s := by
  fin_cases hr <;> rfl

end Sys2Proof.Spec

namespace Sys2Proof.Machine

open Sys2Proof.Spec

variable (s : State) (w : Nat)

/-! ### The access operations on each side of the bound -/

theorem writeInteger_of_out_of_bounds (enc : Nat → Nat → Bytes) (h : s.len0 < s.arg1.toNat + w) :
    writeInteger w enc s = .next (failed s 1 0x01) :=
  ((writeInteger_cases s w enc).resolve_left fun hin => absurd hin.1 (Nat.not_le.2 h)).2

theorem writeInteger_of_in_bounds (enc : Nat → Nat → Bytes) (h : s.arg1.toNat + w ≤ s.len0) :
    writeInteger w enc s =
      .next (done (withBuf0 s (memWrite s.buf0 s.arg1.toNat (enc w (s.arg0.toNat % 2 ^ (8 * w)))))) :=
  ((writeInteger_cases s w enc).resolve_right fun hout => absurd h (Nat.not_le.2 hout.1)).2

theorem readInteger_of_out_of_bounds (dec : Bytes → Nat) (h : s.len0 < s.arg1.toNat + w) :
    readInteger w dec s = .next (failed s 1 0x01) :=
  ((readInteger_cases s w dec).resolve_left fun hin => absurd hin.1 (Nat.not_le.2 h)).2

theorem readInteger_of_in_bounds (dec : Bytes → Nat) (h : s.arg1.toNat + w ≤ s.len0) :
    readInteger w dec s =
      .next (done { s with res0 := BitVec.ofNat 64 (dec (memRead s.buf0 s.arg1.toNat w)) }) :=
  ((readInteger_cases s w dec).resolve_right fun hout => absurd h (Nat.not_le.2 hout.1)).2

end Sys2Proof.Machine
end

section
/-! PROOFS. The statements about the BYTEORDER unit (spec/40_byteorder.md R120 to R133). -/

namespace Sys2Proof.Proofs

open Sys2Proof Sys2Proof.Machine Sys2Proof.Spec

/-- Settles O27: the stored bytes are those of the whole ARG0 in the row's order, since the encoder sees only the low
bits, and a buffer write replaces exactly its own bytes. -/
theorem writeCommandsStoreTheLowBytes : Obligations.WriteCommandsStoreTheLowBytes := by
  intro r hr s
  rw [exec_of_mem_wrRows s hr]
  refine ⟨decodeWord_of_mem_wrRows hr, writeInteger_of_out_of_bounds s r.width r.encoder, fun hin => ?_⟩
  have hfit : s.arg1.toNat + (r.encoder r.width s.arg0.toNat).length ≤ s.buf0.length := by simpa using hin
  refine ⟨memWrite s.buf0 s.arg1.toNat (r.encoder r.width s.arg0.toNat), ?_, length_memWrite _ _ _ hfit, ?_, ?_⟩
  · rw [writeInteger_of_in_bounds s r.width r.encoder hin, r.encoder_mod]
  · intro j hj
    rw [getElem?_memWrite_inside _ _ _ j hfit (by simpa using hj), r.getElem?_encoder s.arg0 hj]
  · intro a ha
    exact getElem?_memWrite_outside _ _ _ a hfit (by simpa using ha)

/-- Settles O28: the integer read fits RES0, and its bytes in the row's order are the bytes it was read from. -/
theorem readCommandsLoadTheBytes : Obligations.ReadCommandsLoadTheBytes := by
  intro r hr s
  rw [exec_of_mem_rdRows s hr]
  refine ⟨decodeWord_of_mem_rdRows hr, readInteger_of_out_of_bounds s r.width r.decoder, fun hin => ?_⟩
  set b := memRead s.buf0 s.arg1.toNat r.width
  have hlen : b.length = r.width := length_memRead _ _ _ hin
  have hval : (BitVec.ofNat 64 (r.decoder b)).toNat = r.decoder b :=
    r.toNat_ofNat_decoder (hlen.trans_le (width_le_of_mem_rdRows hr))
  refine ⟨BitVec.ofNat 64 (r.decoder b), readInteger_of_in_bounds s r.width r.decoder hin, ?_, fun j hj => ?_⟩
  · rw [hval, ← hlen]
    exact r.decoder_lt b
  · calc s.buf0[s.arg1.toNat + j]?
        = b[j]? := (getElem?_memRead _ _ _ j hj).symm
      _ = (r.encoder r.width (BitVec.ofNat 64 (r.decoder b)).toNat)[j]? := by rw [hval, ← hlen, r.encoder_decoder]
      _ = some ((BitVec.ofNat 64 (r.decoder b)).extractLsb' (8 * r.place j) 8) := r.getElem?_encoder _ hj

end Sys2Proof.Proofs
end

section
/-! SUPPORT. The operations of the BYTEARRAY unit by index (spec/41_bytearray.md R157 to R162): the byte, bit or character
each puts at an index, and the length of what it answers. -/

namespace Sys2Proof.Machine

theorem getElem?_eq_some_byteAt {b : Bytes} {i : Nat} (h : i < b.length) : b[i]? = some (byteAt b i) := by
  simp [byteAt, h]

theorem byteAt_of_getElem?_eq_some {b : Bytes} {i : Nat} {x : Byte} (h : b[i]? = some x) : byteAt b i = x := by
  simp [byteAt, h]

/-- The values of a pointwise map, index by index. -/
theorem getElem?_of_mapAll_eq_some {α β : Type} {f : α → Option β} {xs : List α} {ys : List β}
    (h : mapAll f xs = some ys) {i : Nat} {x : α} {y : β} (hx : xs[i]? = some x) (hy : f x = some y) :
    ys[i]? = some y := by
  have hi := congrArg (·[i]?) ((mapAll_eq_some f xs ys).1 h)
  simpa [hx, hy, eq_comm] using hi

/-! ### The dword swap (R157) -/

@[simp] theorem length_swapDwords (b : Bytes) (m : Nat) : (swapDwords b m).length = m := by simp [swapDwords]

/-- Below a bound that is whole groups, the mirror index of `i` in its group is below the bound too. -/
theorem groupMirror_lt {i m : Nat} (hm : m % 4 = 0) (hi : i < m) : 4 * (i / 4) + 3 - i % 4 < m := by omega

/-- The mirror index of the mirror index is the index. -/
theorem groupMirror_groupMirror (i : Nat) :
    4 * ((4 * (i / 4) + 3 - i % 4) / 4) + 3 - (4 * (i / 4) + 3 - i % 4) % 4 = i := by omega

/-- Within whole groups of `b`, the swap puts at `i` the byte of the mirror index. -/
theorem getElem?_swapDwords {b : Bytes} {i m : Nat} (hm : m % 4 = 0) (hle : m ≤ b.length) (hi : i < m) :
    (swapDwords b m)[i]? = b[4 * (i / 4) + 3 - i % 4]? := by
  rw [getElem?_eq_some_byteAt ((groupMirror_lt hm hi).trans_le hle)]
  simp [swapDwords, hi]

/-- The dword swap of whole groups is its own inverse (R158). -/
theorem swapDwords_swapDwords {b : Bytes} (hb : b.length % 4 = 0) :
    swapDwords (swapDwords b b.length) b.length = b := by
  apply List.ext_getElem?
  intro i
  by_cases hi : i < b.length
  · rw [getElem?_swapDwords hb (by simp) hi, getElem?_swapDwords hb le_rfl (groupMirror_lt hb hi),
      groupMirror_groupMirror]
  · rw [List.getElem?_eq_none (by simpa using hi), List.getElem?_eq_none (by simpa using hi)]

theorem trimmedLength_of_neg (n : Nat) {t : Int} (ht : t < 0) : trimmedLength n t = n := if_neg (by omega)

theorem trimmedLength_of_nonneg (n : Nat) {t : Int} (ht : 0 ≤ t) : (trimmedLength n t : Int) = min (n : Int) t := by
  rw [trimmedLength, if_pos ht]
  omega

theorem trimmedLength_le (n : Nat) (t : Int) : trimmedLength n t ≤ n := by
  unfold trimmedLength
  split <;> omega

/-- A trim the command accepts leaves whole groups. -/
theorem trimmedLength_mod_four {n : Nat} {t : Int} (hn : n % 4 = 0) (ht : t < 0 ∨ t % 4 = 0) :
    trimmedLength n t % 4 = 0 := by
  unfold trimmedLength
  split <;> omega

/-! ### One bit (R159, R160) -/

theorem shiftRight_three (i : Nat) : i >>> 3 = i / 8 := Nat.shiftRight_eq_div_pow i 3

theorem and_seven (i : Nat) : i &&& 7 = i % 8 := Nat.and_two_pow_sub_one_eq_mod i 3

theorem bitOf_eq_toNat_getLsbD (b : Bytes) (i : Nat) : bitOf b i = ((byteAt b (i / 8)).getLsbD (i % 8)).toNat := by
  rw [bitOf, shiftRight_three, and_seven, BitVec.getLsbD, Nat.toNat_testBit, Nat.and_one_is_mod,
    Nat.shiftRight_eq_div_pow]

/-- The byte with the bit set has that bit, and every other bit of the old byte. -/
theorem getLsbD_byteWithBit (b : Bytes) (i : Nat) {k : Nat} (hk : k < 8) :
    (byteWithBit b i).getLsbD k = ((byteAt b (i / 8)).getLsbD k || k == i % 8) := by
  have hbit : (byteOf (1 <<< (i % 8))).getLsbD k = (k == i % 8) := by
    rw [byteOf, BitVec.getLsbD_ofNat, Nat.one_shiftLeft, Nat.testBit_two_pow]
    simp [hk, beq_eq_decide, eq_comm]
  rw [byteWithBit, shiftRight_three, and_seven, BitVec.getLsbD_or, hbit]

/-! ### Hex text (R161, R162) -/

/-- The spec's digit values are the model's, with and without HEX_UPPER_OK: all 256 bytes. -/
theorem hexDigit_eq_hexVal (upperOk : Bool) (c : Byte) : Spec.hexDigit upperOk c = hexVal upperOk c := by
  revert upperOk c
  decide +kernel

theorem getElem?_hexDigits {d : Nat} (hd : d < 16) : Spec.hexDigits[d]? = some (hexChar d) :=
  (by decide : ∀ d < 16, Spec.hexDigits[d]? = some (hexChar d)) d hd

/-- Two digit values per byte. -/
theorem length_joinNibbles (ds : List Nat) : (joinNibbles ds).length = ds.length / 2 := by
  induction ds using joinNibbles.induct with
  | case1 hi lo rest ih => simp only [joinNibbles, List.length_cons, ih]; omega
  | case2 ds hshort =>
    match ds with
    | [] => rfl
    | [_] => simp [joinNibbles]
    | hi :: lo :: rest => exact (hshort hi lo rest rfl).elim

/-- Byte `i` is made of the digit values at `2i` and `2i + 1`. -/
theorem getElem?_joinNibbles {ds : List Nat} {i hi lo : Nat} (hhi : ds[2 * i]? = some hi)
    (hlo : ds[2 * i + 1]? = some lo) : (joinNibbles ds)[i]? = some (byteOf (16 * hi + lo)) := by
  induction i generalizing ds with
  | zero =>
    match ds with
    | [] => cases hhi
    | [_] => cases hlo
    | _ :: _ :: _ => cases hhi; cases hlo; rfl
  | succ i ih =>
    match ds with
    | [] => cases hhi
    | [_] => cases hlo
    | _ :: _ :: rest => exact ih (ds := rest) hhi hlo

theorem hexText_cons (x : Byte) (b : Bytes) :
    hexText (x :: b) = hexChar (x.toNat / 16) :: hexChar (x.toNat % 16) :: hexText b := by
  simp [hexText, Nat.shiftRight_eq_div_pow, Nat.and_two_pow_sub_one_eq_mod x.toNat 4]

@[simp] theorem length_hexText (b : Bytes) : (hexText b).length = 2 * b.length := by
  induction b with
  | nil => rfl
  | cons x b ih => rw [hexText_cons]; simp only [List.length_cons, ih]; omega

/-- The characters at `2i` and `2i + 1` are those of the high and the low four bits of byte `i`. -/
theorem getElem?_hexText {b : Bytes} {i : Nat} {x : Byte} (hx : b[i]? = some x) :
    (hexText b)[2 * i]? = some (hexChar (x.toNat / 16)) ∧
    (hexText b)[2 * i + 1]? = some (hexChar (x.toNat % 16)) := by
  induction b generalizing i with
  | nil => cases hx
  | cons y b ih =>
    rw [hexText_cons]
    cases i with
    | zero => cases hx; exact ⟨rfl, rfl⟩
    | succ i => exact ih hx

end Sys2Proof.Machine
end

section
/-! SUPPORT. The commands of the BYTEARRAY unit, one lemma per outcome (spec/41_bytearray.md R156 to R162;
spec/60_exceptions.md R288): the condition of each check, and the state it leaves in the spec's terms. -/

namespace Sys2Proof.Machine

open Sys2Proof.Spec

variable (s : State)

theorem exec_revb : exec .revb s = .next (done (withObuf s s.buf0.reverse)) := rfl

/-! ### REVDW -/

theorem exec_revdw_of_bad_length (hlen : s.len0 % 4 ≠ 0) : exec .revdw s = .next (failed s 1 0x02) := if_pos hlen

theorem exec_revdw_of_bad_trim (hlen : s.len0 % 4 = 0) (hpos : 0 ≤ s.arg0.toInt) (htrim : s.arg0.toInt % 4 ≠ 0) :
    exec .revdw s = .next (failed s 1 0x03) :=
  (if_neg (not_not.2 hlen)).trans (if_pos ⟨hpos, htrim⟩)

theorem exec_revdw_of_valid (hlen : s.len0 % 4 = 0) (htrim : s.arg0.toInt < 0 ∨ s.arg0.toInt % 4 = 0) :
    exec .revdw s = .next (done (withObuf s (swapDwords s.buf0 (trimmedLength s.len0 s.arg0.toInt)))) :=
  (if_neg (not_not.2 hlen)).trans (if_neg fun ⟨hpos, hne⟩ => htrim.elim (not_lt.2 hpos) hne)

/-- Without a trim REVDW swaps the whole buffer. -/
theorem exec_revdw_of_no_trim (hlen : s.len0 % 4 = 0) (hneg : s.arg0.toInt < 0) :
    exec .revdw s = .next (done (withObuf s (swapDwords s.buf0 s.len0))) := by
  rw [exec_revdw_of_valid s hlen (.inl hneg), trimmedLength_of_neg s.len0 hneg]

/-! ### BITCHK and BITSET -/

theorem exec_bitchk_of_out_of_bounds (h : s.len0 ≤ s.arg1.toNat / 8) : exec .bitchk s = .next (failed s 1 0x01) :=
  if_pos (by rwa [shiftRight_three])

theorem exec_bitchk_of_in_bounds (h : s.arg1.toNat / 8 < s.len0) :
    exec .bitchk s = .next (done { s with res0 := BitVec.ofNat 64 (bitOf s.buf0 s.arg1.toNat) }) :=
  if_neg (by rw [shiftRight_three]; exact Nat.not_le.2 h)

theorem exec_bitset_of_out_of_bounds (h : s.len0 ≤ s.arg1.toNat / 8) : exec .bitset s = .next (failed s 1 0x01) :=
  if_pos (by rwa [shiftRight_three])

theorem exec_bitset_of_in_bounds (h : s.arg1.toNat / 8 < s.len0) :
    exec .bitset s =
      .next (done (withBuf0 s (memWrite s.buf0 (s.arg1.toNat / 8) [byteWithBit s.buf0 s.arg1.toNat]))) := by
  rw [← shiftRight_three] at h ⊢
  exact if_neg (Nat.not_le.2 h)

/-! ### HEX2BIN and BIN2HEX -/

theorem exec_hex2bin_of_odd (hodd : s.len0 % 2 = 1) : exec .hex2bin s = .next (failed s 2 0x10) :=
  if_pos (by omega)

theorem exec_hex2bin_of_bad_digit (heven : s.len0 % 2 = 0) (hbad : mapAll (hexVal s.cfg.hexUpperOk) s.buf0 = none) :
    exec .hex2bin s = .next (failed s 2 0x11) := by
  refine (if_neg (not_not.2 heven)).trans ?_
  rw [hbad]
  rfl

theorem exec_hex2bin_of_digits {digits : List Nat} (heven : s.len0 % 2 = 0)
    (hdigits : mapAll (hexVal s.cfg.hexUpperOk) s.buf0 = some digits) :
    exec .hex2bin s = .next (done (withObuf s (joinNibbles digits))) := by
  refine (if_neg (not_not.2 heven)).trans ?_
  rw [hdigits]
  rfl

theorem exec_bin2hex_of_too_long (hcap : s.cfg.bufCap < 2 * s.len0) : exec .bin2hex s = .next (failed s 1 0x04) :=
  if_pos hcap

theorem exec_bin2hex_of_fits (hcap : 2 * s.len0 ≤ s.cfg.bufCap) :
    exec .bin2hex s = .next (done (withObuf s (hexText s.buf0))) :=
  if_neg (Nat.not_lt.2 hcap)

end Sys2Proof.Machine
end

section
/-! PROOFS. The statements about the BYTEARRAY unit (spec/41_bytearray.md R156 to R162). -/

namespace Sys2Proof.Proofs

open Sys2Proof Sys2Proof.Machine Sys2Proof.Spec

/-- Settles O31: an accepted trim leaves whole groups of BUF0, so every mirror index is an index of BUF0. -/
theorem revdwReversesEachGroup : Obligations.RevdwReversesEachGroup := by
  intro s
  refine ⟨decodeWord_encode .revdw, exec_revdw_of_bad_length s, exec_revdw_of_bad_trim s, fun hlen htrim => ?_⟩
  refine ⟨_, exec_revdw_of_valid s hlen htrim, ?_⟩
  rw [length_swapDwords]
  refine ⟨trimmedLength_of_neg s.len0, trimmedLength_of_nonneg s.len0, fun i hi => ?_⟩
  exact getElem?_swapDwords (trimmedLength_mod_four hlen htrim) (trimmedLength_le _ _) hi

/-- Settles O32: both runs swap a whole buffer, and the swap is its own inverse. -/
theorem revdwTwiceIsTheIdentity : Obligations.RevdwTwiceIsTheIdentity := by
  intro s hlen hneg
  have hlen' : (swapDwords s.buf0 s.len0).length % 4 = 0 := by rwa [length_swapDwords]
  refine ⟨_, _, exec_revdw_of_no_trim s hlen hneg, exec_revdw_of_no_trim _ hlen' hneg, rfl, ?_⟩
  change swapDwords (swapDwords s.buf0 s.len0) (swapDwords s.buf0 s.len0).length = s.buf0
  rw [length_swapDwords]
  exact swapDwords_swapDwords hlen

/-- Settles O33. -/
theorem bitchkReadsOneBit : Obligations.BitchkReadsOneBit := by
  intro s
  refine ⟨decodeWord_encode .bitchk, exec_bitchk_of_out_of_bounds s, fun x hx => ?_⟩
  obtain ⟨hin, -⟩ := List.getElem?_eq_some_iff.1 hx
  rw [exec_bitchk_of_in_bounds s hin, bitOf_eq_toNat_getLsbD, byteAt_of_getElem?_eq_some hx]
  cases x.getLsbD (s.arg1.toNat % 8) <;> rfl

/-- Settles O34: the buffer write stores exactly the byte with its bit set. -/
theorem bitsetSetsOneBit : Obligations.BitsetSetsOneBit := by
  intro s
  refine ⟨decodeWord_encode .bitset, exec_bitset_of_out_of_bounds s, fun x hx => ?_⟩
  obtain ⟨hin, -⟩ := List.getElem?_eq_some_iff.1 hx
  have hfit : s.arg1.toNat / 8 + [byteWithBit s.buf0 s.arg1.toNat].length ≤ s.buf0.length := hin
  refine ⟨_, byteWithBit s.buf0 s.arg1.toNat, exec_bitset_of_in_bounds s hin, length_memWrite _ _ _ hfit,
    getElem?_memWrite_inside _ _ _ 0 hfit Nat.one_pos, fun k hk => ?_, fun a ha => ?_⟩
  · rw [getLsbD_byteWithBit s.buf0 s.arg1.toNat hk, byteAt_of_getElem?_eq_some hx]
  · exact getElem?_memWrite_outside _ _ _ a hfit (Nat.lt_or_gt_of_ne ha)

/-- Settles O36: the digits are read byte by byte, and a byte of the result joins two of them. -/
theorem hex2binReadsPairsOfDigits : Obligations.Hex2binReadsPairsOfDigits := by
  intro s
  simp only [hexDigit_eq_hexVal]
  refine ⟨decodeWord_encode .hex2bin, exec_hex2bin_of_odd s, fun heven hbad => ?_, fun heven hgood => ?_⟩
  · exact exec_hex2bin_of_bad_digit s heven ((mapAll_eq_none _ _).2 hbad)
  · cases hdigits : mapAll (hexVal s.cfg.hexUpperOk) s.buf0 with
    | none =>
      obtain ⟨c, hc, hnone⟩ := (mapAll_eq_none _ _).1 hdigits
      exact (hgood c hc hnone).elim
    | some digits =>
      refine ⟨_, exec_hex2bin_of_digits s heven hdigits, ?_, fun i _ hi lo vh vl hhi hlo hvh hvl => ?_⟩
      · rw [length_joinNibbles, length_mapAll hdigits]
        exact Nat.mul_div_cancel' (Nat.dvd_of_mod_eq_zero heven)
      · exact getElem?_joinNibbles (getElem?_of_mapAll_eq_some hdigits hhi hvh)
          (getElem?_of_mapAll_eq_some hdigits hlo hvl)

/-- Settles O37. -/
theorem bin2hexWritesTwoDigitsPerByte : Obligations.Bin2hexWritesTwoDigitsPerByte := by
  intro s
  refine ⟨decodeWord_encode .bin2hex, exec_bin2hex_of_too_long s, fun hcap => ?_⟩
  refine ⟨_, exec_bin2hex_of_fits s hcap, length_hexText s.buf0, fun i x hx => ?_⟩
  have hbyte := x.isLt
  rw [getElem?_hexDigits (by omega), getElem?_hexDigits (by omega)]
  exact getElem?_hexText hx

/-- Settles O30. -/
theorem revbReversesTheBuffer : Obligations.RevbReversesTheBuffer := by
  intro s
  refine ⟨decodeWord_encode .revb, s.buf0.reverse, exec_revb s, List.length_reverse, fun i hi => ?_⟩
  exact List.getElem?_reverse hi

end Sys2Proof.Proofs
end

section
/-! SUPPORT. The single-range commands of the HASH unit, one lemma per outcome (spec/42_hash.md R186, R187, R189): the
range check, and the state each leaves in the spec's terms. -/

namespace Sys2Proof.Machine

open Sys2Proof.Spec

variable (s : State)

/-! ### A range of BUF0 -/

/-- The check of a range of BUF0: its end, offset plus length, is at most LEN0 (R186). -/
theorem inBounds_buf0_iff (off n : Word) : inBounds s.buf0 (u64 off) (u64 n) = true ↔ off.toNat + n.toNat ≤ s.len0 :=
  inBounds_eq_true s.buf0 off.toNat n.toNat

/-! ### SHA256 -/

theorem exec_sha256_of_out_of_bounds (h : s.len0 < s.arg1.toNat + s.arg2.toNat) :
    exec .sha256 s = .next (failed s 1 0x01) :=
  if_neg (mt (inBounds_buf0_iff s _ _).1 (Nat.not_le.2 h))

theorem exec_sha256_of_in_bounds (h : s.arg1.toNat + s.arg2.toNat ≤ s.len0) :
    exec .sha256 s = .next (done (withObuf s (sha256Digest (memRead s.buf0 s.arg1.toNat s.arg2.toNat)))) :=
  if_pos ((inBounds_buf0_iff s _ _).2 h)

/-! ### SHA256D -/

theorem exec_sha256d_of_out_of_bounds (h : s.len0 < s.arg1.toNat + s.arg2.toNat) :
    exec .sha256d s = .next (failed s 1 0x01) :=
  if_neg (mt (inBounds_buf0_iff s _ _).1 (Nat.not_le.2 h))

theorem exec_sha256d_of_in_bounds (h : s.arg1.toNat + s.arg2.toNat ≤ s.len0) :
    exec .sha256d s = .next (done (withObuf s (doubleSha256 (memRead s.buf0 s.arg1.toNat s.arg2.toNat)))) :=
  if_pos ((inBounds_buf0_iff s _ _).2 h)

/-! ### HASH160 -/

/-- HASH160 has no check and no range: it completes in every state (R189). -/
theorem exec_hash160 : exec .hash160 s = .next (done (withObuf s (hash160Digest s.buf0))) := rfl

end Sys2Proof.Machine
end

section
/-! PROOFS. The statements about the single-range commands of the HASH unit (spec/42_hash.md R186, R187, R189). -/

namespace Sys2Proof.Proofs

open Sys2Proof Sys2Proof.Machine Sys2Proof.Spec

/-- Settles O39: the hashed message is what a buffer read of the range answers, so it has the range's length and its
bytes. -/
theorem digestCommandsHashTheRange : Obligations.DigestCommandsHashTheRange := by
  intro s
  refine ⟨decodeWord_encode .sha256, decodeWord_encode .sha256d, fun hout => ?_, fun hin => ?_⟩
  · exact ⟨exec_sha256_of_out_of_bounds s hout, exec_sha256d_of_out_of_bounds s hout⟩
  · have hlen : (memRead s.buf0 s.arg1.toNat s.arg2.toNat).length = s.arg2.toNat := length_memRead _ _ _ hin
    refine ⟨memRead s.buf0 s.arg1.toNat s.arg2.toNat, hlen, fun j hj => ?_, exec_sha256_of_in_bounds s hin,
      exec_sha256d_of_in_bounds s hin, length_sha256Digest _, length_sha256Digest _⟩
    exact getElem?_memRead _ _ _ j (hj.trans_eq hlen)

/-- Settles O41. -/
theorem hash160HashesTheWholeBuffer : Obligations.Hash160HashesTheWholeBuffer := fun s =>
  ⟨decodeWord_encode .hash160, exec_hash160 s, length_rmd160Digest _⟩

end Sys2Proof.Proofs
end

section
/-! SUPPORT. VarInt by its forms (spec/43_varint.md R210 to R213): the bytes of the form an integer is given, the length
a first byte implies, and what a decoder reads from a form with any bytes after it. -/

namespace Sys2Proof.Machine

/-! ### Little-endian integers in a register -/

/-- The little-endian bytes of a register are its 8-bit fields, the lowest first (spec/00_scope.md R12). -/
theorem leBytes_toNat (n : Nat) (v : Word) :
    leBytes n v.toNat = (List.range n).map fun i => v.extractLsb' (8 * i) 8 := rfl

/-- A register holds any integer read from at most 8 bytes. -/
theorem toNat_ofNat_fromLE {b : Bytes} (hb : b.length ≤ 8) : (BitVec.ofNat 64 (fromLE b)).toNat = fromLE b := by
  have hlt : fromLE b < 2 ^ 64 := (fromLE_lt b).trans_le (Nat.pow_le_pow_right (n := 256) (by decide) hb)
  rw [BitVec.toNat_ofNat, Nat.mod_eq_of_lt hlt]

/-- The bytes an integer in a register was read from are the register's 8-bit fields. -/
theorem getElem?_eq_extractLsb'_fromLE {b : Bytes} (hb : b.length ≤ 8) {j : Nat} (hj : j < b.length) :
    b[j]? = some ((BitVec.ofNat 64 (fromLE b)).extractLsb' (8 * j) 8) := by
  calc b[j]?
      = (leBytes b.length (BitVec.ofNat 64 (fromLE b)).toNat)[j]? := by rw [toNat_ofNat_fromLE hb, leBytes_fromLE]
    _ = some ((BitVec.ofNat 64 (fromLE b)).extractLsb' (8 * j) 8) := getElem?_leBytes _ _ _ hj

/-! ### The forms an encoder writes (R211, R213) -/

variable {v : Nat}

theorem viEncode_of_one_byte (h : v < 0xFD) : viEncode v = [byteOf v] := if_pos h

theorem viEncode_of_two_bytes (hlo : 0xFD ≤ v) (hhi : v ≤ 0xFFFF) : viEncode v = 0xFD#8 :: leBytes 2 v := by
  rw [viEncode, if_neg (by omega), if_pos hhi]

theorem viEncode_of_four_bytes (hlo : 0x10000 ≤ v) (hhi : v ≤ 0xFFFFFFFF) : viEncode v = 0xFE#8 :: leBytes 4 v := by
  rw [viEncode, if_neg (by omega), if_neg (by omega), if_pos hhi]

theorem viEncode_of_eight_bytes (hlo : 0x100000000 ≤ v) : viEncode v = 0xFF#8 :: leBytes 8 v := by
  rw [viEncode, if_neg (by omega), if_neg (by omega), if_neg (by omega)]

/-- The encoding of a 64-bit value is its one byte, or a first byte and the bytes that byte implies, which hold it. -/
theorem viEncode_cases (hv : v < 2 ^ 64) :
    (v < 0xFD ∧ viEncode v = [byteOf v]) ∨
    ∃ p n, 0 < n ∧ viLen p = n + 1 ∧ v < 256 ^ n ∧ viEncode v = p :: leBytes n v := by
  by_cases h1 : v < 0xFD
  · exact .inl ⟨h1, viEncode_of_one_byte h1⟩
  right
  by_cases h2 : v ≤ 0xFFFF
  · exact ⟨0xFD#8, 2, by decide, rfl, by omega, viEncode_of_two_bytes (by omega) h2⟩
  by_cases h4 : v ≤ 0xFFFFFFFF
  · exact ⟨0xFE#8, 4, by decide, rfl, by omega, viEncode_of_four_bytes (by omega) h4⟩
  · exact ⟨0xFF#8, 8, by decide, rfl, by omega, viEncode_of_eight_bytes (by omega)⟩

/-- `vi_size` is the length of the encoding (R213). -/
theorem length_viEncode (v : Nat) : (viEncode v).length = viSize v := by
  unfold viEncode viSize
  split_ifs <;> simp

/-! ### What a decoder reads (R210, R212) -/

/-- The spec's implied length is the model's: all 256 first bytes. -/
theorem viLen_eq_impliedLength (p : Byte) : viLen p = Spec.impliedLength p := by
  revert p
  decide +kernel

theorem viLen_le (p : Byte) : viLen p ≤ 9 := by
  unfold viLen
  split_ifs <;> decide

theorem toNat_ofNat_viLen (p : Byte) : (BitVec.ofNat 64 (viLen p)).toNat = viLen p := by
  rw [BitVec.toNat_ofNat, Nat.mod_eq_of_lt ((viLen_le p).trans_lt (by decide))]

theorem viLen_byteOf (h : v < 0xFD) : viLen (byteOf v) = 1 := if_pos (by rw [toNat_byteOf]; omega)

theorem viValue_of_one_byte {p : Byte} (b : Bytes) (hp : viLen p = 1) : viValue p b = p.toNat := if_pos hp

theorem viValue_of_more_bytes {p : Byte} (b : Bytes) (hp : 1 < viLen p) :
    viValue p b = fromLE (memRead b 1 (viLen p - 1)) := if_neg hp.ne'

/-- A decoder finds after a first byte the integer that stands there in the bytes the first one implies. -/
theorem viValue_cons_leBytes {p : Byte} {n : Nat} (hn : 0 < n) (hp : viLen p = n + 1) (hv : v < 256 ^ n)
    (rest : Bytes) : viValue p (p :: leBytes n v ++ rest) = v := by
  have hread : memRead (p :: leBytes n v ++ rest) 1 n = leBytes n v := List.take_left' (length_leBytes n v)
  rw [viValue_of_more_bytes _ (by omega), hp, Nat.add_sub_cancel, hread, fromLE_leBytes, Nat.mod_eq_of_lt hv]

/-- The first byte of an encoding implies the encoding's length, and a decoder reads the value back, whatever follows
(R216). -/
theorem viValue_viEncode_append (hv : v < 2 ^ 64) (rest : Bytes) :
    ∃ p, (viEncode v ++ rest)[0]? = some p ∧ viLen p = (viEncode v).length ∧
      viValue p (viEncode v ++ rest) = v := by
  obtain ⟨hsmall, henc⟩ | ⟨p, n, hn, hp, hfit, henc⟩ := viEncode_cases hv
  · rw [henc]
    refine ⟨byteOf v, rfl, viLen_byteOf hsmall, ?_⟩
    rw [viValue_of_one_byte _ (viLen_byteOf hsmall), toNat_byteOf]
    omega
  · rw [henc]
    exact ⟨p, rfl, by simp [hp], viValue_cons_leBytes hn hp hfit rest⟩

end Sys2Proof.Machine
end

section
/-! SUPPORT. The commands of the VARINT unit, one lemma per outcome (spec/43_varint.md R211, R212, R214, R215): the
condition of each, and the state it leaves in the spec's terms. -/

namespace Sys2Proof.Machine

open Sys2Proof.Spec

variable (s : State)

/-- VI_ENC has no check: it completes in every state (R211). -/
theorem exec_viEnc : exec .viEnc s = .next (done (withObuf s (viEncode s.arg0.toNat))) := rfl

theorem exec_viDec_of_empty (h : s.buf0 = []) : exec .viDec s = .next (failed s 2 0x12) := by
  rw [exec, execViDec, h]
  rfl

/-- On a buffer with a first byte, VI_DEC is the check against the length that byte implies (R212). -/
theorem exec_viDec_of_first {p : Byte} (hp : s.buf0[0]? = some p) :
    exec .viDec s = if s.len0 < viLen p then .next (failed s 2 0x12) else
      .next (done { s with res0 := BitVec.ofNat 64 (viValue p s.buf0), res1 := BitVec.ofNat 64 (viLen p) }) := by
  cases hb : s.buf0 with
  | nil => rw [hb] at hp; cases hp
  | cons q rest =>
    rw [hb] at hp
    cases hp
    have hlen : s.len0 = (p :: rest).length := congrArg List.length hb
    rw [hlen, exec, execViDec, hb]
    rfl

theorem exec_viDec_of_truncated {p : Byte} (hp : s.buf0[0]? = some p) (h : s.len0 < viLen p) :
    exec .viDec s = .next (failed s 2 0x12) := by
  rw [exec_viDec_of_first s hp, if_pos h]

theorem exec_viDec_of_complete {p : Byte} (hp : s.buf0[0]? = some p) (h : viLen p ≤ s.len0) :
    exec .viDec s =
      .next (done { s with res0 := BitVec.ofNat 64 (viValue p s.buf0), res1 := BitVec.ofNat 64 (viLen p) }) := by
  rw [exec_viDec_of_first s hp, if_neg (Nat.not_lt.2 h)]

end Sys2Proof.Machine
end

section
/-! PROOFS. The statements about the VARINT unit (spec/43_varint.md R210 to R216). -/

namespace Sys2Proof.Proofs

open Sys2Proof Sys2Proof.Machine Sys2Proof.Spec

/-- Settles O47: each range of values has its form, whose bytes after the first are the fields of ARG0. -/
theorem viEncChoosesTheShortestForm : Obligations.ViEncChoosesTheShortestForm := by
  intro s
  simp only [← leBytes_toNat]
  exact ⟨decodeWord_encode .viEnc, _, exec_viEnc s, viEncode_of_one_byte, viEncode_of_two_bytes,
    viEncode_of_four_bytes, viEncode_of_eight_bytes⟩

/-- Settles O48: RES0 holds what was read, since at most 8 bytes follow the first, and its fields are those bytes. -/
theorem viDecReadsTheImpliedForm : Obligations.ViDecReadsTheImpliedForm := by
  intro s
  simp only [← viLen_eq_impliedLength]
  refine ⟨decodeWord_encode .viDec, exec_viDec_of_empty s, fun p hp => ⟨exec_viDec_of_truncated s hp, ?_⟩⟩
  intro (hlen : viLen p ≤ s.buf0.length)
  refine ⟨_, exec_viDec_of_complete s hp hlen, fun hone => ?_, fun hmore => ?_⟩
  · rw [viValue_of_one_byte _ hone, BitVec.toNat_ofNat]
    exact Nat.mod_eq_of_lt (p.isLt.trans (by decide))
  · rw [viValue_of_more_bytes _ hmore]
    set body := memRead s.buf0 1 (viLen p - 1)
    have hbody : body.length = viLen p - 1 := length_memRead _ _ _ (by omega)
    have hfit : body.length ≤ 8 := by have := viLen_le p; omega
    refine ⟨?_, fun j hj => ?_⟩
    · rw [toNat_ofNat_fromLE hfit, ← hbody, Nat.pow_mul]
      exact fromLE_lt body
    · rw [← getElem?_memRead _ _ _ j hj]
      exact getElem?_eq_extractLsb'_fromLE hfit (hj.trans_eq hbody.symm)

/-- Settles O49: the encoding starts with a byte that implies its length, so VI_DEC takes exactly the encoding and reads
the value back. -/
theorem varIntRoundTrips : Obligations.VarIntRoundTrips := by
  intro s rest
  obtain ⟨p, hfirst, hlen, hvalue⟩ := viValue_viEncode_append s.arg0.isLt rest
  have hcomplete : viLen p ≤ (viEncode s.arg0.toNat ++ rest).length := by rw [hlen, List.length_append]; omega
  refine ⟨_, _, exec_viEnc s, exec_viDec_of_complete _ hfirst hcomplete, rfl, ?_, ?_, length_viEncode _⟩
  · exact (congrArg (BitVec.ofNat 64) hvalue).trans (by simp)
  · exact (toNat_ofNat_viLen p).trans hlen

end Sys2Proof.Proofs
end

section
/-! SUPPORT. The spec's terms for digits, big-endian values and leading elements against the model's
(spec/00_scope.md R12; spec/44_base58.md R230 to R233). -/

namespace Sys2Proof.Spec

open Sys2Proof.Machine

/-! ### Values -/

theorem sumDigits_eq_ofDigitsLE (base : Nat) (ds : List Nat) : sumDigits base ds = ofDigitsLE base ds := by
  induction ds with
  | nil => rfl
  | cons d ds ih => exact congrArg (d + base * ·) ih

theorem sumDigits_map_toNat (b : Bytes) : sumDigits 256 (b.map BitVec.toNat) = fromLE b := by
  induction b with
  | nil => rfl
  | cons x b ih => exact congrArg (x.toNat + 256 * ·) ih

theorem bigEndian_eq_fromBE (b : Bytes) : bigEndian b = fromBE b := by
  rw [bigEndian, sumDigits_map_toNat, fromBE_eq_fromLE_reverse]

/-! ### Leading elements -/

variable (x : Byte)

theorem leading_cons_self (b : Bytes) : leading x (x :: b) = leading x b + 1 := if_pos rfl

theorem leading_cons_of_ne {x y : Byte} (b : Bytes) (h : y ≠ x) : leading x (y :: b) = 0 := if_neg h

theorem leading_of_head?_ne {x : Byte} {b : Bytes} (h : b.head? ≠ some x) : leading x b = 0 := by
  cases b with
  | nil => rfl
  | cons y b => exact leading_cons_of_ne b fun hyx => h (congrArg some hyx)

theorem leading_replicate_append (k : Nat) (b : Bytes) : leading x (List.replicate k x ++ b) = leading x b + k := by
  induction k with
  | zero => rfl
  | succ k ih => rw [List.replicate_succ, List.cons_append, leading_cons_self, ih, Nat.add_assoc]

theorem leading_le_length (b : Bytes) : leading x b ≤ b.length := by
  induction b with
  | nil => exact le_rfl
  | cons y b ih =>
    by_cases hy : y = x
    · subst hy
      rw [leading_cons_self]
      exact Nat.succ_le_succ ih
    · rw [leading_cons_of_ne b hy]
      exact Nat.zero_le _

theorem leadingCount_eq_leading (b : Bytes) : leadingCount x b = leading x b := by
  induction b with
  | nil => rfl
  | cons y b ih =>
    by_cases hy : y = x
    · subst hy
      rw [leading_cons_self, ← ih]
      simp [leadingCount]
    · rw [leading_cons_of_ne b hy]
      simp [leadingCount, hy]

end Sys2Proof.Spec
end

section
/-! SUPPORT. Base58 by its digits (spec/44_base58.md R230 to R234): the alphabet, how many digits a number has, and what
the encoder and the decoder make of a sequence of bytes. -/

namespace Sys2Proof.Machine

open Sys2Proof.Spec

/-! ### The alphabet (R230) -/

theorem alphabet58_eq_alphabet : alphabet58 = alphabet := by decide

theorem alpha58_eq_getD (d : Nat) : alpha58 d = alphabet.getD d 0 := by rw [alpha58, byteAt, alphabet58_eq_alphabet]

/-- The digit of a digit's character is the digit. -/
theorem b58Val_alpha58 {d : Nat} (hd : d < 58) : b58Val (alpha58 d) = some d :=
  (by decide : ∀ d < 58, b58Val (alpha58 d) = some d) d hd

/-- Only the digit 0 has the character `1`. -/
theorem alpha58_eq_one_iff {d : Nat} (hd : d < 58) : alpha58 d = 0x31#8 ↔ d = 0 :=
  (by decide : ∀ d < 58, alpha58 d = 0x31#8 ↔ d = 0) d hd

theorem b58Val_eq_none_iff (c : Byte) : b58Val c = none ↔ c ∉ alphabet := by
  rw [b58Val, alphabet58_eq_alphabet, List.findIdx?_eq_none_iff]
  constructor
  · intro h hc
    simpa using h c hc
  · intro hc y hy
    simpa using ne_of_mem_of_not_mem hy hc

/-! ### How many digits a number has -/

/-- A number below the `k`-th power of the base has at most `k` digits, whatever the fuel. -/
theorem length_digitsLE_le_of_lt_pow {base k n : Nat} (fuel : Nat) (h : n < base ^ k) :
    (digitsLE base fuel n).length ≤ k := by
  induction fuel generalizing n k with
  | zero => simp [digitsLE]
  | succ fuel ih =>
    rw [digitsLE]
    split
    case isTrue => exact Nat.zero_le k
    case isFalse hn =>
      cases k with
      | zero =>
        rw [Nat.pow_zero] at h
        omega
      | succ k => exact Nat.succ_le_succ (ih (Nat.div_lt_of_lt_mul (by rwa [Nat.pow_succ'] at h)))

/-- A byte is worth less than 56/41 base-58 digits: that is below the 1.366 of R232, and close enough to it. -/
theorem pow_256_le_pow_58 (n : Nat) : 256 ^ n ≤ 58 ^ ((56 * n + 40) / 41) := by
  rw [← Nat.pow_le_pow_iff_left (show 41 ≠ 0 by decide)]
  calc (256 ^ n) ^ 41
      = (256 ^ 41) ^ n := Nat.pow_right_comm 256 n 41
    _ ≤ (58 ^ 56) ^ n := Nat.pow_le_pow_left (by norm_num) n
    _ = 58 ^ (56 * n) := (Nat.pow_mul 58 56 n).symm
    _ ≤ 58 ^ ((56 * n + 40) / 41 * 41) := Nat.pow_le_pow_right (by decide) (by omega)
    _ = (58 ^ ((56 * n + 40) / 41)) ^ 41 := Nat.pow_mul 58 _ 41

theorem fromBE_zero_cons (b : Bytes) : fromBE (0x00#8 :: b) = fromBE b := rfl

/-- Leading zero bytes are worth nothing. -/
theorem fromBE_lt_of_leading (b : Bytes) : fromBE b < 256 ^ (b.length - leading 0x00#8 b) := by
  induction b with
  | nil => decide
  | cons y b ih =>
    by_cases hy : y = 0x00#8
    · subst hy
      rwa [fromBE_zero_cons, leading_cons_self, List.length_cons, Nat.add_sub_add_right]
    · rw [leading_cons_of_ne b hy]
      exact fromBE_lt (y :: b)

theorem fromDigits58_zero_cons (ds : List Nat) : fromDigits58 (0 :: ds) = fromDigits58 ds := rfl

theorem fromDigits58_lt {ds : List Nat} (h : ∀ d ∈ ds, d < 58) : fromDigits58 ds < 58 ^ ds.length := by
  rw [fromDigits58_eq, ← List.length_reverse]
  exact ofDigitsLE_lt 58 ds.reverse fun d hd => h d (List.mem_reverse.1 hd)

/-- Leading characters `1` are worth nothing. -/
theorem fromDigits58_lt_of_leading {ds : List Nat} (h : ∀ d ∈ ds, d < 58) :
    fromDigits58 ds < 58 ^ (ds.length - leading 0x31#8 (ds.map alpha58)) := by
  induction ds with
  | nil => decide
  | cons d ds ih =>
    by_cases hd : d = 0
    · subst hd
      have hone : alpha58 0 = 0x31#8 := (alpha58_eq_one_iff (by decide)).2 rfl
      rw [fromDigits58_zero_cons, List.map_cons, hone, leading_cons_self, List.length_cons, Nat.add_sub_add_right]
      exact ih fun e he => h e (List.mem_cons_of_mem 0 he)
    · have hne : alpha58 d ≠ 0x31#8 := mt (alpha58_eq_one_iff (h d List.mem_cons_self)).1 hd
      rw [List.map_cons, leading_cons_of_ne _ hne]
      exact fromDigits58_lt h

/-! ### The encoder (R232) -/

variable (b : Bytes)

theorem digits58_lt : ∀ d ∈ digits58 b, d < 58 := digitsLE_lt 58 (by decide) _ _

theorem digits58_getLast?_ne_zero : (digits58 b).getLast? ≠ some 0 :=
  digitsLE_getLast?_ne_zero 58 _ _ (fromBE_lt_pow58 b)

theorem sumDigits_digits58 : sumDigits 58 (digits58 b) = bigEndian b := by
  rw [sumDigits_eq_ofDigitsLE, bigEndian_eq_fromBE, digits58, ofDigitsLE_digitsLE 58 _ _ (fromBE_lt_pow58 b)]

/-- At most 1.366 digits, rounded up, per byte that is not a leading zero. -/
theorem length_digits58_lt : 1000 * (digits58 b).length < 1366 * (b.length - leading 0x00#8 b) + 1000 := by
  have hlen := length_digitsLE_le_of_lt_pow (2 * b.length) ((fromBE_lt_of_leading b).trans_le (pow_256_le_pow_58 _))
  rw [← digits58] at hlen
  omega

theorem base58Encode_eq : base58Encode b =
    List.replicate (leading 0x00#8 b) 0x31#8 ++ ((digits58 b).map fun d => alphabet.getD d 0).reverse := by
  rw [base58Encode, leadingCount_eq_leading, funext alpha58_eq_getD]

/-- The text of the digits does not start with `1`. -/
theorem head?_text_digits58_ne_one : ((digits58 b).map alpha58).reverse.head? ≠ some 0x31#8 := by
  rw [List.head?_reverse, List.getLast?_map]
  intro h
  obtain ⟨d, hlast, hd⟩ := Option.map_eq_some_iff.1 h
  rw [alpha58_eq_one_iff (digits58_lt b d (List.mem_of_getLast? hlast))] at hd
  exact digits58_getLast?_ne_zero b (hd ▸ hlast)

/-- As many leading characters `1` as leading zero bytes (R244). -/
theorem leading_base58Encode : leading 0x31#8 (base58Encode b) = leading 0x00#8 b := by
  rw [base58Encode, leading_replicate_append, leading_of_head?_ne (head?_text_digits58_ne_one b),
    leadingCount_eq_leading, Nat.zero_add]

/-! ### The decoder (R233) -/

/-- The decoder's digits of a text are those its characters stand for. -/
theorem mapAll_b58Val_map_alpha58 {ds : List Nat} (h : ∀ d ∈ ds, d < 58) :
    mapAll b58Val (ds.map alpha58) = some ds := by
  rw [mapAll_eq_some, List.map_map]
  exact List.map_congr_left fun d hd => b58Val_alpha58 (h d hd)

theorem base58Decode_of_bad_char {text : Bytes} (h : ∃ c ∈ text, c ∉ alphabet) : base58Decode text = none := by
  obtain ⟨c, hc, hbad⟩ := h
  rw [base58Decode, (mapAll_eq_none b58Val text).2 ⟨c, hc, (b58Val_eq_none_iff c).2 hbad⟩]

theorem base58Decode_map_alpha58 {ds : List Nat} (h : ∀ d ∈ ds, d < 58) : base58Decode (ds.map alpha58) =
    some (List.replicate (leading 0x31#8 (ds.map alpha58)) 0x00#8 ++ shortestBE ds.length (fromDigits58 ds)) := by
  rw [base58Decode, mapAll_b58Val_map_alpha58 h]
  simp only [leadingCount_eq_leading, List.length_map]

variable (fuel n : Nat)

theorem map_toNat_map_byteOf_digitsLE :
    ((digitsLE 256 fuel n).map byteOf).map BitVec.toNat = digitsLE 256 fuel n := by
  rw [List.map_map]
  refine (List.map_congr_left (g := id) fun d hd => ?_).trans (List.map_id _)
  exact (toNat_byteOf d).trans (Nat.mod_eq_of_lt (digitsLE_lt 256 (by decide) fuel n d hd))

variable {fuel n}

theorem bigEndian_shortestBE (h : n < 256 ^ fuel) : bigEndian (shortestBE fuel n) = n := by
  rw [bigEndian, shortestBE, List.reverse_reverse, map_toNat_map_byteOf_digitsLE, sumDigits_eq_ofDigitsLE,
    ofDigitsLE_digitsLE 256 fuel n h]

theorem head?_shortestBE_ne_zero (h : n < 256 ^ fuel) : (shortestBE fuel n).head? ≠ some 0 := by
  rw [shortestBE, List.head?_reverse]
  intro hzero
  have hlast := congrArg (Option.map BitVec.toNat) hzero
  rw [← List.getLast?_map, map_toNat_map_byteOf_digitsLE] at hlast
  exact digitsLE_getLast?_ne_zero 256 fuel n h hlast

theorem length_shortestBE_le (fuel : Nat) {k : Nat} (h : n < 256 ^ k) : (shortestBE fuel n).length ≤ k := by
  rw [shortestBE, List.length_reverse, List.length_map]
  exact length_digitsLE_le_of_lt_pow fuel h

/-- The leading zero bytes and the bytes of the number are together no more than the characters. -/
theorem leading_add_length_shortestBE_le {ds : List Nat} (h : ∀ d ∈ ds, d < 58) :
    leading 0x31#8 (ds.map alpha58) + (shortestBE ds.length (fromDigits58 ds)).length ≤ ds.length := by
  have hlead := leading_le_length 0x31#8 (ds.map alpha58)
  have hbody := length_shortestBE_le ds.length
    ((fromDigits58_lt_of_leading h).trans_le (Nat.pow_le_pow_left (by decide : 58 ≤ 256) _))
  rw [List.length_map] at hlead
  omega

end Sys2Proof.Machine
end

section
/-! SUPPORT. The commands of the B58 unit, one lemma per outcome (spec/44_base58.md R232 to R235;
spec/60_exceptions.md R288): the condition of each, and the state it leaves in the spec's terms. -/

namespace Sys2Proof.Machine

open Sys2Proof.Spec

variable (s : State)

/-! ### B58_ENC and B58C_ENC -/

theorem succeedWithinCapacity_of_too_long {out : Bytes} (h : s.cfg.bufCap < out.length) :
    succeedWithinCapacity s out = .next (failed s 1 0x04) :=
  if_pos h

theorem succeedWithinCapacity_of_fits {out : Bytes} (h : out.length ≤ s.cfg.bufCap) :
    succeedWithinCapacity s out = .next (done (withObuf s out)) :=
  if_neg (Nat.not_lt.2 h)

theorem exec_b58Enc : exec .b58Enc s = succeedWithinCapacity s (base58Encode s.buf0) := rfl

theorem exec_b58cEnc : exec .b58cEnc s = succeedWithinCapacity s (base58Encode (s.buf0 ++ checksum58 s.buf0)) := rfl

/-- A capacity check that passes leaves exactly what it was given in OBUF. -/
theorem obuf_of_succeedWithinCapacity {s t : State} {out : Bytes} (h : succeedWithinCapacity s out = .next t)
    (hkind : t.status.kind = 0) : t.obuf = out := by
  by_cases hfit : out.length ≤ s.cfg.bufCap
  · rw [succeedWithinCapacity_of_fits s hfit] at h
    cases h
    rfl
  · rw [succeedWithinCapacity_of_too_long s (Nat.not_le.1 hfit)] at h
    cases h
    exact absurd hkind (by decide : (1 : BitVec 3) ≠ 0)

/-! ### B58_DEC -/

theorem exec_b58Dec_of_none (h : base58Decode s.buf0 = none) : exec .b58Dec s = .next (failed s 2 0x13) := by
  rw [exec, execB58Dec, h]
  rfl

theorem exec_b58Dec_of_some {d : Bytes} (h : base58Decode s.buf0 = some d) :
    exec .b58Dec s = .next (done (withObuf s d)) := by
  rw [exec, execB58Dec, h]
  rfl

/-- What B58_DEC puts in OBUF is what the decoder makes of the text. -/
theorem base58Decode_of_exec_b58Dec {d : Bytes} (h : exec .b58Dec s = .next (done (withObuf s d))) :
    base58Decode s.buf0 = some d := by
  cases hdec : base58Decode s.buf0 with
  | none =>
    rw [exec_b58Dec_of_none s hdec, Host.Outcome.next.injEq] at h
    exact absurd (congrArg (·.status.kind) h) (by decide : (2 : BitVec 3) ≠ 0)
  | some d' =>
    rw [exec_b58Dec_of_some s hdec, Host.Outcome.next.injEq] at h
    exact congrArg (some ·.obuf) h

/-! ### B58C_DEC -/

theorem exec_b58cDec_of_none (h : base58Decode s.buf0 = none) : exec .b58cDec s = .next (failed s 2 0x13) := by
  rw [exec, execB58cDec, h]
  rfl

theorem exec_b58cDec_of_too_short {d : Bytes} (h : base58Decode s.buf0 = some d) (hlen : d.length < 4) :
    exec .b58cDec s = .next (failed s 2 0x14) := by
  rw [exec, execB58cDec, h]
  exact if_pos hlen

/-- On a text of a payload and four more bytes, B58C_DEC is the check of those four (R235). -/
theorem exec_b58cDec_of_append {p c : Bytes} (h : base58Decode s.buf0 = some (p ++ c)) (hc : c.length = 4) :
    exec .b58cDec s =
      if checksum58 p ≠ c then .next (failed s 2 0x15) else .next (done (withObuf s p)) := by
  have hlen : (p ++ c).length - 4 = p.length := by rw [List.length_append, hc, Nat.add_sub_cancel]
  have hlong : ¬ (p ++ c).length < 4 := by rw [List.length_append]; omega
  rw [exec, execB58cDec, h]
  refine (if_neg hlong).trans ?_
  rw [hlen, List.take_left, List.drop_left]
  rfl

theorem exec_b58cDec_of_bad_checksum {p c : Bytes} (h : base58Decode s.buf0 = some (p ++ c)) (hc : c.length = 4)
    (hsum : checksum58 p ≠ c) : exec .b58cDec s = .next (failed s 2 0x15) := by
  rw [exec_b58cDec_of_append s h hc, if_pos hsum]

theorem exec_b58cDec_of_checksum {p c : Bytes} (h : base58Decode s.buf0 = some (p ++ c)) (hc : c.length = 4)
    (hsum : checksum58 p = c) : exec .b58cDec s = .next (done (withObuf s p)) := by
  rw [exec_b58cDec_of_append s h hc, if_neg (not_not.2 hsum)]

end Sys2Proof.Machine
end

section
/-! PROOFS. The statements about the B58 unit (spec/44_base58.md R232 to R235, R244). -/

namespace Sys2Proof.Proofs

open Sys2Proof Sys2Proof.Machine Sys2Proof.Spec

/-- Settles O50: the digits are those of the model's repeated division, whose fuel is enough, and a byte is worth at
most 56/41 of them. -/
theorem b58EncWritesTheDigits : Obligations.B58EncWritesTheDigits := by
  intro s
  rw [exec_b58Enc]
  exact ⟨decodeWord_encode .b58Enc, digits58 s.buf0, base58Encode s.buf0, digits58_lt _, digits58_getLast?_ne_zero _,
    sumDigits_digits58 _, length_digits58_lt _, base58Encode_eq _,
    succeedWithinCapacity_of_too_long s, succeedWithinCapacity_of_fits s⟩

/-- Settles O51: the decoder reads back the digits the characters stand for, most significant first, and their value is
below 256 to the number of characters that are not a leading `1`. -/
theorem b58DecReadsTheDigits : Obligations.B58DecReadsTheDigits := by
  intro s
  refine ⟨decodeWord_encode .b58Dec, fun hbad => exec_b58Dec_of_none s (base58Decode_of_bad_char hbad), ?_⟩
  intro ds hds htext
  have hrev : ∀ d ∈ ds.reverse, d < 58 := fun d hd => hds d (List.mem_reverse.1 hd)
  have hbuf : s.buf0 = ds.reverse.map alpha58 := by rw [htext, ← funext alpha58_eq_getD, List.map_reverse]
  have hlen : s.len0 = ds.reverse.length :=
    (congrArg List.length hbuf).trans (List.length_map _)
  have hfit : fromDigits58 ds.reverse < 256 ^ ds.reverse.length :=
    (fromDigits58_lt hrev).trans_le (Nat.pow_le_pow_left (by decide) _)
  refine ⟨shortestBE ds.reverse.length (fromDigits58 ds.reverse), ?_, head?_shortestBE_ne_zero hfit, ?_, ?_⟩
  · rw [bigEndian_shortestBE hfit, fromDigits58_eq, List.reverse_reverse, sumDigits_eq_ofDigitsLE]
  · rw [hbuf, hlen]
    exact leading_add_length_shortestBE_le hrev
  · exact exec_b58Dec_of_some s (by rw [hbuf, base58Decode_map_alpha58 hrev])

/-- Settles O53: the text of the digits does not start with `1`, since the most significant digit is not 0. -/
theorem leadingZeroBytesBecomeLeadingOnes : Obligations.LeadingZeroBytesBecomeLeadingOnes := by
  intro s t hexec hkind
  rw [exec_b58Enc] at hexec
  rw [obuf_of_succeedWithinCapacity hexec hkind, leading_base58Encode]

/-- Settles O54: B58C_ENC writes the text of the payload with its checksum behind it. -/
theorem b58cEncEncodesPayloadAndChecksum : Obligations.B58cEncEncodesPayloadAndChecksum := by
  intro s
  rw [exec_b58cEnc]
  exact ⟨decodeWord_encode .b58cEnc, digits58 (s.buf0 ++ checksum58 s.buf0), checksum58 s.buf0,
    base58Encode (s.buf0 ++ checksum58 s.buf0), rfl, length_checksum58 _, digits58_lt _, digits58_getLast?_ne_zero _,
    sumDigits_digits58 _, base58Encode_eq _,
    succeedWithinCapacity_of_too_long s, succeedWithinCapacity_of_fits s⟩

/-- Settles O55: both commands decode the text alike, so what B58_DEC makes of it is what B58C_DEC checks. -/
theorem b58cDecVerifiesTheChecksum : Obligations.B58cDecVerifiesTheChecksum := by
  intro s
  refine ⟨decodeWord_encode .b58cDec, fun hbad => exec_b58cDec_of_none s (base58Decode_of_bad_char hbad), ?_⟩
  intro d hd
  have hdec := base58Decode_of_exec_b58Dec s hd
  refine ⟨exec_b58cDec_of_too_short s hdec, ?_⟩
  rintro p c rfl hc
  exact ⟨exec_b58cDec_of_bad_checksum s hdec hc, exec_b58cDec_of_checksum s hdec hc⟩

end Sys2Proof.Proofs
end

section
/-! SUPPORT. How a command completes against the cause table (spec/60_exceptions.md R284, R288, R290): one relation between
a row of the table and the outcome, its rules for a check, and every command of every unit in it. -/

namespace Sys2Proof.Machine

open Sys2Proof.Spec

/-- The outcome a command at `s` has under a cause of the table: the `raise` of that cause, or, where there is none, a
success whose writes left STATUS alone. -/
inductive Completes (s : State) : Option (BitVec 3 × BitVec 8) → Host.Outcome State Fault Refusal → Prop where
  | error (d : ErrorDetail) : Completes s (some (d.kind.code, d.code)) (raise d s)
  | success {t : State} (ht : t.status = s.status) : Completes s none (succeed t)

variable {s : State} {cause : Option (BitVec 3 × BitVec 8)} {o : Host.Outcome State Fault Refusal}

/-! ### What the relation says in the spec's terms -/

theorem Completes.eq_failed {k : BitVec 3} {d : BitVec 8} (h : Completes s (some (k, d)) o) :
    o = .next (failed s k d) := by
  cases h
  rfl

theorem Completes.exists_done (h : Completes s none o) : ∃ t, o = .next t ∧ t.status = (done s).status := by
  cases h with
  | success ht => exact ⟨_, rfl, congrArg Status.succeeded ht⟩

/-- Whatever the cause, the block is idle and DONE, with a success that keeps ESTK or an error that changes only STATUS. -/
theorem Completes.succeeds_or_changes_only_status (h : Completes s cause o) :
    ∃ t, o = .next t ∧ t.status.busy = false ∧ t.status.done = true ∧
      ((t.status.kind = 0 ∧ t.status.detail = 0 ∧ t.status.estk = s.status.estk) ∨
        (t.status.kind ≠ 0 ∧ t = failed s t.status.kind t.status.detail)) := by
  cases h with
  | error d => exact ⟨_, rfl, rfl, rfl, .inr ⟨d.kind_code_ne_zero, rfl⟩⟩
  | @success t ht => exact ⟨t.setStatus t.status.succeeded, rfl, rfl, rfl, .inl ⟨rfl, rfl, congrArg (·.estk) ht⟩⟩

/-! ### Rules: one check of a command beside one row of the table -/

/-- A check that raises where its row of the table applies, before everything after it. -/
theorem Completes.check {p q : Prop} [Decidable p] [Decidable q] (hpq : p ↔ q) (d : ErrorDetail)
    (hrest : Completes s cause o) :
    Completes s (if p then some (d.kind.code, d.code) else cause) (if q then raise d s else o) := by
  by_cases hp : p
  · rw [if_pos hp, if_pos (hpq.1 hp)]
    exact .error d
  · rwa [if_neg hp, if_neg (mt hpq.2 hp)]

/-- A bounds check of a buffer: OUT_OF_BOUNDS where the range ends past the length (spec/20_memory.md R63). -/
theorem Completes.bounds {b : Bytes} {off n : Nat} (hrest : Completes s cause o) :
    Completes s (if off + n > b.length then some (1, 0x01) else cause)
      (if inBounds b off n then o else raise .outOfBounds s) := by
  rw [← ite_not (inBounds b off n = true)]
  exact .check (Nat.not_le.symm.trans (not_congr (inBounds_eq_true b off n)).symm) .outOfBounds hrest

theorem Completes.obuf (out : Bytes) : Completes s none (succeedWithObuf s out) := .success rfl

/-- A capacity check on the result (spec/20_memory.md R64). -/
theorem Completes.withinCapacity (out : Bytes) :
    Completes s (if out.length > s.cfg.bufCap then some (1, 0x04) else none) (succeedWithinCapacity s out) :=
  .check Iff.rfl .capacity (.obuf out)

/-! ### What makes a text undecodable -/

/-- A pointwise map has no value exactly where some element has none. -/
theorem any_isNone_iff_mapAll_eq_none {α β : Type} (f : α → Option β) (xs : List α) :
    (xs.any fun x => (f x).isNone) = true ↔ mapAll f xs = none := by
  simp [mapAll_eq_none]

theorem any_not_alphabet_iff_base58Decode_eq_none (text : Bytes) :
    (text.any fun c => !alphabet.contains c) = true ↔ base58Decode text = none := by
  have hbad : (text.any fun c => !alphabet.contains c) = true ↔ mapAll b58Val text = none := by
    simp [mapAll_eq_none, b58Val_eq_none_iff]
  rw [hbad, base58Decode]
  cases mapAll b58Val text <;> simp

/-! ### The commands -/

variable (s)

theorem writeInteger_completes (w : Nat) (enc : Nat → Nat → Bytes) :
    Completes s (if s.arg1.toNat + w > s.len0 then some (1, 0x01) else none) (writeInteger w enc s) :=
  .bounds (.success rfl)

theorem readInteger_completes (w : Nat) (dec : Bytes → Nat) :
    Completes s (if s.arg1.toNat + w > s.len0 then some (1, 0x01) else none) (readInteger w dec s) :=
  .bounds (.success rfl)

/-- The row of BITCHK and BITSET: the byte of the bit index is past the end (spec/41_bytearray.md R159, R160). -/
theorem bitIndex_out_of_bounds_iff : s.arg1.toNat / 8 ≥ s.len0 ↔ u64 s.arg1 >>> 3 ≥ s.len0 := by rw [shiftRight_three]

/-- The length is checked before the trim (R288). -/
theorem exec_revdw_completes : Completes s (causeOf .revdw s) (exec .revdw s) :=
  .check Iff.rfl .badLengthMod4 (.check Iff.rfl .badTrim (.obuf _))

/-- The range of BUF0 is checked before that of BUF1, and both have the one row of the table. -/
theorem exec_sha256d2_completes : Completes s (causeOf .sha256d2 s) (exec .sha256d2 s) := by
  rw [causeOf, ite_or]
  exact .bounds (.bounds (.obuf _))

/-- The length is checked before the digits (R288). -/
theorem exec_hex2bin_completes : Completes s (causeOf .hex2bin s) (exec .hex2bin s) := by
  refine .check (by omega) .hexOddLength ?_
  simp only [hexDigit_eq_hexVal, any_isNone_iff_mapAll_eq_none]
  cases mapAll (hexVal s.cfg.hexUpperOk) s.buf0 with
  | none => exact .error .hexBadDigit
  | some digits => exact .obuf (joinNibbles digits)

theorem exec_viDec_completes : Completes s (causeOf .viDec s) (exec .viDec s) := by
  rw [causeOf, exec, execViDec]
  cases s.buf0 with
  | nil => exact .error .varintTruncated
  | cons p rest => exact .check (by rw [viLen_eq_impliedLength]; rfl) .varintTruncated (.success rfl)

theorem exec_b58Dec_completes : Completes s (causeOf .b58Dec s) (exec .b58Dec s) := by
  simp only [causeOf, any_not_alphabet_iff_base58Decode_eq_none]
  cases hdec : base58Decode s.buf0 with
  | none => rw [exec_b58Dec_of_none s hdec]; exact .error .b58BadChar
  | some d => rw [exec_b58Dec_of_some s hdec]; exact .obuf d

/-- The alphabet, the length and the checksum are checked in that order (R288). -/
theorem exec_b58cDec_completes : Completes s (causeOf .b58cDec s) (exec .b58cDec s) := by
  simp only [causeOf, any_not_alphabet_iff_base58Decode_eq_none, checkedCause, exec, execB58cDec]
  cases base58Decode s.buf0 with
  | none => exact .error .b58BadChar
  | some d => exact .check Iff.rfl .b58cTooShort (.check Iff.rfl .b58cBadChecksum (.obuf _))

/-- Every command completes as its row of the cause table says (R284, R288). -/
theorem exec_completes (i : Instr) : Completes s (causeOf i s) (exec i s) := by
  cases i with
  | wr16be | wr16le => exact writeInteger_completes s 2 _
  | wr32be | wr32le => exact writeInteger_completes s 4 _
  | wr64be | wr64le => exact writeInteger_completes s 8 _
  | rd16be | rd16le => exact readInteger_completes s 2 _
  | rd32be | rd32le => exact readInteger_completes s 4 _
  | rd64be | rd64le => exact readInteger_completes s 8 _
  | bitchk | bitset => exact .check (bitIndex_out_of_bounds_iff s) .outOfBounds (.success rfl)
  | sha256 | sha256d => exact .bounds (.obuf _)
  | sha256d2 => exact exec_sha256d2_completes s
  | revdw => exact exec_revdw_completes s
  | bin2hex => exact .check Iff.rfl .capacity (.obuf _)
  | b58Enc | b58cEnc => exact .withinCapacity _
  | hex2bin => exact exec_hex2bin_completes s
  | viDec => exact exec_viDec_completes s
  | b58Dec => exact exec_b58Dec_completes s
  | b58cDec => exact exec_b58cDec_completes s
  | revb | hash160 | viEnc => exact .obuf _

/-- A command word in flight completes, as its command does or as ILLEGAL_COMMAND (R285). -/
theorem complete_completes (hb : s.status.busy = true) : ∃ cause, Completes s cause (complete s) := by
  obtain ⟨-, i, -, hexec⟩ | ⟨-, -, hillegal⟩ | ⟨hidle, -⟩ := complete_cases s
  · rw [hexec]
    exact ⟨_, exec_completes s i⟩
  · rw [hillegal]
    exact ⟨_, .error .illegalCommand⟩
  · rw [hb] at hidle
    cases hidle

end Sys2Proof.Machine
end

section
/-! PROOFS. The statements about completion and the causes of errors (spec/10_state.md R44; spec/60_exceptions.md R284,
R288, R290). -/

namespace Sys2Proof.Proofs

open Sys2Proof Sys2Proof.Machine Sys2Proof.Spec

/-- Settles O15: a command in flight completes under some cause of the table or none, and no cause has the kind of
success. -/
theorem completionSucceedsOrChangesOnlyStatus : Obligations.CompletionSucceedsOrChangesOnlyStatus := by
  intro s hbusy
  obtain ⟨_, hcompletes⟩ := complete_completes s hbusy
  exact hcompletes.succeeds_or_changes_only_status

/-- Settles O16: each command's checks stand beside the rows of the table in the same order, and an illegal word decodes
to no command. -/
theorem errorsAreThoseOfTheCauseTable : Obligations.ErrorsAreThoseOfTheCauseTable := by
  intro s
  refine ⟨fun i => ⟨fun k d hcause => ?_, fun hnone => ?_⟩, fun hbusy hillegal => ?_⟩
  · exact (hcause ▸ exec_completes s i).eq_failed
  · exact (hnone ▸ exec_completes s i).exists_done
  · obtain ⟨e, hdecode⟩ := decodeWord_of_illegal hillegal
    exact complete_of_decode_error s hbusy hdecode

end Sys2Proof.Proofs
end

section
/-! SUPPORT. Hex text read and written (spec/41_bytearray.md R163): the digits of a written text join to the bytes it was
written from, and the text of the bytes a text was read as is that text in lower case. -/

namespace Sys2Proof.Machine

open Sys2Proof.Spec

theorem mapAll_cons_of_some {α β : Type} {f : α → Option β} {x : α} {xs : List α} {y : β} {ys : List β}
    (hx : f x = some y) (hxs : mapAll f xs = some ys) : mapAll f (x :: xs) = some (y :: ys) := by
  rw [mapAll, hx, hxs]

/-- What holds of every element and its value holds along the whole map. -/
theorem map_eq_map_of_mapAll {α β γ : Type} {f : α → Option β} {g : β → γ} {k : α → γ}
    (hfg : ∀ x y, f x = some y → g y = k x) {xs : List α} {ys : List β} (h : mapAll f xs = some ys) :
    ys.map g = xs.map k := by
  induction xs generalizing ys with
  | nil => cases h; rfl
  | cons x xs ih =>
    rw [mapAll] at h
    split at h
    case h_1 y zs hx hxs =>
      cases h
      rw [List.map_cons, List.map_cons, hfg x y hx, ih hxs]
    case h_2 => cases h

/-! ### From bytes to text and back -/

/-- A written digit has its value, with and without HEX_UPPER_OK. -/
theorem hexVal_hexChar (upperOk : Bool) {d : Nat} (hd : d < 16) : hexVal upperOk (hexChar d) = some d :=
  (by decide : ∀ upperOk, ∀ d < 16, hexVal upperOk (hexChar d) = some d) upperOk d hd

/-- The digits of the text of some bytes join to those bytes. -/
theorem exists_digits_hexText (upperOk : Bool) (b : Bytes) :
    ∃ ds, mapAll (hexVal upperOk) (hexText b) = some ds ∧ joinNibbles ds = b := by
  induction b with
  | nil => exact ⟨[], rfl, rfl⟩
  | cons x b ih =>
    obtain ⟨ds, hds, hjoin⟩ := ih
    have hx := x.isLt
    have hhi := hexVal_hexChar upperOk (d := x.toNat / 16) (by omega)
    have hlo := hexVal_hexChar upperOk (d := x.toNat % 16) (by omega)
    refine ⟨x.toNat / 16 :: x.toNat % 16 :: ds, ?_, ?_⟩
    · rw [hexText_cons]
      exact mapAll_cons_of_some hhi (mapAll_cons_of_some hlo hds)
    · rw [joinNibbles, hjoin, Nat.div_add_mod, byteOf_toNat]

/-! ### From text to bytes and back -/

/-- The digit written for the value of a digit is that digit in lower case: all 256 characters. -/
theorem hexChar_of_hexVal {upperOk : Bool} {c : Byte} {d : Nat} (h : hexVal upperOk c = some d) :
    d < 16 ∧ hexChar d = lowerHex c :=
  (by decide +kernel : ∀ upperOk c, ∀ d ∈ hexVal upperOk c, d < 16 ∧ hexChar d = lowerHex c) upperOk c d h

theorem hexText_joinNibbles {ds : List Nat} (hlt : ∀ d ∈ ds, d < 16) (heven : ds.length % 2 = 0) :
    hexText (joinNibbles ds) = ds.map hexChar := by
  induction ds using joinNibbles.induct with
  | case1 hi lo rest ih =>
    simp only [List.mem_cons, forall_eq_or_imp] at hlt
    obtain ⟨hhi, hlo, hrest⟩ := hlt
    have hbyte : (byteOf (16 * hi + lo)).toNat = 16 * hi + lo := by rw [toNat_byteOf]; omega
    have hhi' : (16 * hi + lo) / 16 = hi := by omega
    have hlo' : (16 * hi + lo) % 16 = lo := by omega
    have heven' : rest.length % 2 = 0 := by simp only [List.length_cons] at heven; omega
    rw [joinNibbles, hexText_cons, hbyte, hhi', hlo', ih hrest heven']
    rfl
  | case2 ds hshort =>
    match ds with
    | [] => rfl
    | [_] => cases heven
    | hi :: lo :: rest => exact (hshort hi lo rest rfl).elim

/-- The text of the bytes an even text was read as is that text in lower case. -/
theorem hexText_of_digits {upperOk : Bool} {b : Bytes} {ds : List Nat} (heven : b.length % 2 = 0)
    (hdigits : mapAll (hexVal upperOk) b = some ds) : hexText (joinNibbles ds) = b.map lowerHex := by
  have hmap : ds.map hexChar = b.map lowerHex := map_eq_map_of_mapAll (fun _ _ h => (hexChar_of_hexVal h).2) hdigits
  have hlt : ∀ d ∈ ds, d < 16 := by
    intro d hd
    have hsome : some d ∈ b.map (hexVal upperOk) := by
      rw [(mapAll_eq_some _ _ _).1 hdigits]
      exact List.mem_map_of_mem hd
    obtain ⟨c, -, hc⟩ := List.mem_map.1 hsome
    exact (hexChar_of_hexVal hc).1
  rw [hexText_joinNibbles hlt (by rwa [length_mapAll hdigits]), hmap]

theorem map_lowerHex_of_no_upper {b : Bytes} (h : ∀ c ∈ b, c ∉ text "ABCDEF") : b.map lowerHex = b :=
  (List.map_congr_left fun c hc => if_neg (h c hc)).trans (List.map_id b)

/-- A command that has completed with the kind of success had no cause of failure. -/
theorem causeOf_eq_none_of_kind_zero {i : Instr} {s t : State} (h : exec i s = .next t) (hkind : t.status.kind = 0) :
    causeOf i s = none := by
  have hcompletes := exec_completes s i
  rw [h] at hcompletes
  generalize causeOf i s = cause at hcompletes ⊢
  cases hcompletes with
  | error d => exact absurd hkind d.kind_code_ne_zero
  | success => rfl

/-- A HEX2BIN without a cause of failure reads an even text of digits. -/
theorem digits_of_causeOf_hex2bin {s : State} (h : causeOf .hex2bin s = none) :
    s.len0 % 2 = 0 ∧ ∃ ds, mapAll (hexVal s.cfg.hexUpperOk) s.buf0 = some ds := by
  simp only [causeOf, hexDigit_eq_hexVal, any_isNone_iff_mapAll_eq_none] at h
  split_ifs at h with hodd hbad
  exact ⟨by omega, Option.ne_none_iff_exists'.1 hbad⟩

end Sys2Proof.Machine
end

section
/-! PROOFS. Hex text is lossless both ways (spec/41_bytearray.md R163). -/

namespace Sys2Proof.Proofs

open Sys2Proof Sys2Proof.Machine Sys2Proof.Spec

/-- Settles O38: the text of some bytes has digits that join to them, and the bytes a text was read as have that text in
lower case; both by induction on the text two digits at a time. -/
theorem hexRoundTrips : Obligations.HexRoundTrips := by
  constructor
  · intro s hcap
    obtain ⟨ds, hdigits, hjoin⟩ := exists_digits_hexText s.cfg.hexUpperOk s.buf0
    have heven : (hexText s.buf0).length % 2 = 0 := by rw [length_hexText, Nat.mul_mod_right]
    exact ⟨_, _, exec_bin2hex_of_fits s hcap, exec_hex2bin_of_digits _ heven hdigits, rfl, hjoin⟩
  · intro s t hlen hexec hkind
    obtain ⟨heven, ds, hdigits⟩ := digits_of_causeOf_hex2bin (causeOf_eq_none_of_kind_zero hexec hkind)
    rw [exec_hex2bin_of_digits s heven hdigits] at hexec
    cases hexec
    have hfit : 2 * (joinNibbles ds).length ≤ s.cfg.bufCap := by
      have hds : ds.length = s.len0 := length_mapAll hdigits
      rw [length_joinNibbles]
      omega
    have htext := hexText_of_digits heven hdigits
    refine ⟨_, exec_bin2hex_of_fits _ hfit, rfl, htext, fun hlower => ?_⟩
    exact htext.trans (map_lowerHex_of_no_upper hlower)

end Sys2Proof.Proofs
end

section
/-! SUPPORT. Base58 as one relation between byte sequences and texts (spec/44_base58.md R232, R233, R243): the encoder
and the decoder compute it in its two directions, and every byte sequence and every text over the alphabet is in it. -/

namespace Sys2Proof.Machine

open Sys2Proof.Spec

/-! ### A number has one sequence of digits -/

/-- Digits without a leading 0 are what repeated division finds of their value, with any fuel that is enough. -/
theorem digitsLE_eq_of_value {base fuel n : Nat} {ds : List Nat} (hlt : ∀ d ∈ ds, d < base)
    (hlast : ds.getLast? ≠ some 0) (hval : ofDigitsLE base ds = n) (hn : n < base ^ fuel) :
    digitsLE base fuel n = ds := by
  obtain hbase | hbase := Nat.eq_zero_or_pos base
  · subst hbase
    have hds : ds = [] := List.eq_nil_iff_forall_not_mem.2 fun d hd => Nat.not_lt_zero d (hlt d hd)
    subst hds hval
    cases fuel <;> rfl
  have hdigits := digitsLE_ofDigitsLE base (max fuel ds.length) (digitsLE base fuel n) (digitsLE_lt base hbase fuel n)
    (digitsLE_getLast?_ne_zero base fuel n hn) ((length_digitsLE_le base fuel n).trans (le_max_left _ _))
  rw [ofDigitsLE_digitsLE base fuel n hn] at hdigits
  rw [← hdigits, ← hval]
  exact digitsLE_ofDigitsLE base _ ds hlt hlast (le_max_right _ _)

theorem ofDigitsLE_map_toNat_reverse (b : Bytes) : ofDigitsLE 256 (b.reverse.map BitVec.toNat) = fromBE b := by
  rw [← sumDigits_eq_ofDigitsLE, sumDigits_map_toNat, fromBE_eq_fromLE_reverse]

/-- Bytes without a leading zero are the shortest ones of their value. -/
theorem shortestBE_fromBE {fuel : Nat} {b : Bytes} (hhead : b.head? ≠ some 0x00#8) (hn : fromBE b < 256 ^ fuel) :
    shortestBE fuel (fromBE b) = b := by
  have hlt : ∀ d ∈ b.reverse.map BitVec.toNat, d < 256 := by
    intro d hd
    obtain ⟨x, -, rfl⟩ := List.mem_map.1 hd
    exact x.isLt
  have hlast : (b.reverse.map BitVec.toNat).getLast? ≠ some 0 := by
    rw [List.getLast?_map, List.getLast?_reverse]
    intro h
    obtain ⟨x, hx, hzero⟩ := Option.map_eq_some_iff.1 h
    exact hhead (by rw [hx, BitVec.eq_of_toNat_eq (hzero.trans rfl : x.toNat = (0x00#8).toNat)])
  have hbytes : (b.reverse.map BitVec.toNat).map byteOf = b.reverse := by
    rw [List.map_map]
    exact (List.map_congr_left fun x _ => byteOf_toNat x).trans (List.map_id _)
  rw [shortestBE, digitsLE_eq_of_value hlt hlast (ofDigitsLE_map_toNat_reverse b) hn, hbytes, List.reverse_reverse]

/-! ### Leading elements -/

theorem exists_eq_replicate_leading_append (x : Byte) (b : Bytes) :
    ∃ rest, b = List.replicate (leading x b) x ++ rest ∧ rest.head? ≠ some x := by
  induction b with
  | nil => exact ⟨[], rfl, by simp⟩
  | cons y b ih =>
    by_cases hy : y = x
    · subst hy
      obtain ⟨rest, hrest, hhead⟩ := ih
      refine ⟨rest, ?_, hhead⟩
      rw [leading_cons_self, List.replicate_succ, List.cons_append, ← hrest]
    · exact ⟨y :: b, by rw [leading_cons_of_ne b hy]; rfl, by simpa using hy⟩

theorem leading_replicate_append_of_head?_ne {x : Byte} {rest : Bytes} (k : Nat) (h : rest.head? ≠ some x) :
    leading x (List.replicate k x ++ rest) = k := by
  rw [leading_replicate_append, leading_of_head?_ne h, Nat.zero_add]

theorem fromBE_replicate_zero_append (k : Nat) (b : Bytes) : fromBE (List.replicate k 0x00#8 ++ b) = fromBE b := by
  induction k with
  | zero => rfl
  | succ k ih => rw [List.replicate_succ, List.cons_append, fromBE_zero_cons, ih]

theorem fromDigits58_replicate_zero_append (k : Nat) (ds : List Nat) :
    fromDigits58 (List.replicate k 0 ++ ds) = fromDigits58 ds := by
  induction k with
  | zero => rfl
  | succ k ih => rw [List.replicate_succ, List.cons_append, fromDigits58_zero_cons, ih]

/-! ### The relation -/

/-- A byte sequence and its Base58 text: as many leading zero bytes as leading characters `1`, and after them the bytes
and the digits of one number, each without a leading 0. -/
structure IsBase58 (b text : Bytes) (k : Nat) (body : Bytes) (ds : List Nat) : Prop where
  bytes_eq : b = List.replicate k 0x00#8 ++ body
  text_eq : text = List.replicate k 0x31#8 ++ ds.map alpha58
  body_head : body.head? ≠ some 0x00#8
  digits_head : ds.head? ≠ some 0
  digits_lt : ∀ d ∈ ds, d < 58
  value_eq : fromBE body = fromDigits58 ds

variable {b text body : Bytes} {k : Nat} {ds : List Nat}

/-- The encoder writes the related text (R232). -/
theorem IsBase58.encode (h : IsBase58 b text k body ds) : base58Encode b = text := by
  obtain ⟨hb, htext, hbody, hhead, hlt, hval⟩ := h
  have hdigits : digits58 b = ds.reverse := by
    refine digitsLE_eq_of_value (fun d hd => hlt d (List.mem_reverse.1 hd)) ?_ ?_ (fromBE_lt_pow58 b)
    · rwa [List.getLast?_reverse]
    · rw [← fromDigits58_eq, ← hval, hb, fromBE_replicate_zero_append]
  have hlead : leading 0x00#8 b = k := hb ▸ leading_replicate_append_of_head?_ne k hbody
  rw [base58Encode, leadingCount_eq_leading, hlead, hdigits, List.map_reverse, List.reverse_reverse, htext]

/-- The characters `1` are digits 0. -/
theorem replicate_one_append_map_alpha58 (k : Nat) (ds : List Nat) :
    List.replicate k 0x31#8 ++ ds.map alpha58 = (List.replicate k 0 ++ ds).map alpha58 := by
  rw [List.map_append, List.map_replicate, (alpha58_eq_one_iff (by decide)).2 rfl]

/-- Digits without a leading 0 are written without a leading `1`. -/
theorem head?_map_alpha58_ne_one (hlt : ∀ d ∈ ds, d < 58) (hhead : ds.head? ≠ some 0) :
    (ds.map alpha58).head? ≠ some 0x31#8 := by
  cases ds with
  | nil => simp
  | cons d ds => simpa [alpha58_eq_one_iff (hlt d List.mem_cons_self)] using hhead

/-- The decoder reads the related bytes (R233). -/
theorem IsBase58.decode (h : IsBase58 b text k body ds) : base58Decode text = some b := by
  obtain ⟨hb, htext, hbody, hhead, hlt, hval⟩ := h
  have hlt' : ∀ d ∈ List.replicate k 0 ++ ds, d < 58 := by
    intro d hd
    obtain hd | hd := List.mem_append.1 hd
    · rw [List.eq_of_mem_replicate hd]
      decide
    · exact hlt d hd
  have hfit : fromBE body < 256 ^ (List.replicate k 0 ++ ds).length := by
    rw [hval, ← fromDigits58_replicate_zero_append k ds]
    exact (fromDigits58_lt hlt').trans_le (Nat.pow_le_pow_left (by decide) _)
  rw [htext, replicate_one_append_map_alpha58, base58Decode_map_alpha58 hlt', ← replicate_one_append_map_alpha58,
    leading_replicate_append_of_head?_ne k (head?_map_alpha58_ne_one hlt hhead), fromDigits58_replicate_zero_append,
    ← hval, shortestBE_fromBE hbody hfit, hb]

/-- Every byte sequence has a text. -/
theorem exists_isBase58_of_bytes (b : Bytes) : ∃ text k body ds, IsBase58 b text k body ds := by
  obtain ⟨body, hb, hhead⟩ := exists_eq_replicate_leading_append 0x00#8 b
  refine ⟨_, leading 0x00#8 b, body, (digits58 body).reverse, hb, rfl, hhead, ?_, ?_, ?_⟩
  · rw [List.head?_reverse]
    exact digits58_getLast?_ne_zero body
  · exact fun d hd => digits58_lt body d (List.mem_reverse.1 hd)
  · rw [fromDigits58_eq, List.reverse_reverse, digits58, ofDigitsLE_digitsLE 58 _ _ (fromBE_lt_pow58 body)]

/-- A text over the alphabet is the text of its characters' digits (R230). -/
theorem exists_digits_of_alphabet (h : ∀ c ∈ text, c ∈ alphabet) :
    ∃ ds : List Nat, (∀ d ∈ ds, d < 58) ∧ text = ds.map alpha58 := by
  induction text with
  | nil => exact ⟨[], by simp, rfl⟩
  | cons c text ih =>
    obtain ⟨ds, hlt, htext⟩ := ih fun x hx => h x (List.mem_cons_of_mem c hx)
    obtain ⟨d, hd, hget⟩ := List.mem_iff_getElem.1 (h c List.mem_cons_self)
    have hc : alpha58 d = c := by rw [alpha58_eq_getD, List.getD_eq_getElem _ _ hd, hget]
    refine ⟨d :: ds, List.forall_mem_cons.2 ⟨hd, hlt⟩, ?_⟩
    rw [List.map_cons, hc, htext]

/-- Every text over the alphabet has its bytes. -/
theorem exists_isBase58_of_text (h : ∀ c ∈ text, c ∈ alphabet) : ∃ b k body ds, IsBase58 b text k body ds := by
  obtain ⟨rest, htext, hhead⟩ := exists_eq_replicate_leading_append 0x31#8 text
  obtain ⟨ds, hlt, hrest⟩ := exists_digits_of_alphabet (text := rest) fun c hc =>
    h c (htext ▸ List.mem_append_right _ hc)
  have hfit : fromDigits58 ds < 256 ^ ds.length :=
    (fromDigits58_lt hlt).trans_le (Nat.pow_le_pow_left (by decide) _)
  refine ⟨_, leading 0x31#8 text, shortestBE ds.length (fromDigits58 ds), ds, rfl, hrest ▸ htext,
    head?_shortestBE_ne_zero hfit, ?_, hlt, ?_⟩
  · intro hzero
    rw [hrest, List.head?_map, hzero] at hhead
    exact hhead rfl
  · rw [← bigEndian_eq_fromBE, bigEndian_shortestBE hfit]

/-! ### The round trips (R243) -/

theorem base58Decode_base58Encode (b : Bytes) : base58Decode (base58Encode b) = some b := by
  obtain ⟨text, k, body, ds, h⟩ := exists_isBase58_of_bytes b
  rw [h.encode, h.decode]

theorem exists_base58Decode_of_alphabet (h : ∀ c ∈ text, c ∈ alphabet) :
    ∃ b, base58Decode text = some b ∧ base58Encode b = text := by
  obtain ⟨b, k, body, ds, h⟩ := exists_isBase58_of_text h
  exact ⟨b, h.decode, h.encode⟩

end Sys2Proof.Machine
end

section
/-! PROOFS. Base58 and Base58Check are lossless (spec/44_base58.md R243, R245). -/

namespace Sys2Proof.Proofs

open Sys2Proof Sys2Proof.Machine Sys2Proof.Spec

/-- Settles O52: the encoder and the decoder compute one relation in its two directions, since a number has one sequence
of digits without a leading 0 in each base. -/
theorem base58RoundTrips : Obligations.Base58RoundTrips := by
  constructor
  · intro s t hexec hkind
    have hobuf : t.obuf = base58Encode s.buf0 := obuf_of_succeedWithinCapacity (exec_b58Enc s ▸ hexec) hkind
    refine ⟨_, exec_b58Dec_of_some (d := s.buf0) _ ?_, rfl, rfl⟩
    rw [hobuf]
    exact base58Decode_base58Encode s.buf0
  · intro s halphabet hlen
    obtain ⟨b, hdec, henc⟩ := exists_base58Decode_of_alphabet halphabet
    have hfit : (base58Encode b).length ≤ s.cfg.bufCap := by rwa [henc]
    exact ⟨_, _, exec_b58Dec_of_some s hdec, rfl, succeedWithinCapacity_of_fits _ hfit, rfl, henc⟩

/-- Settles O56: the text decodes to the payload and its checksum, which B58C_DEC takes off. -/
theorem base58CheckRoundTrips : Obligations.Base58CheckRoundTrips := by
  intro s t hexec hkind
  have hobuf : t.obuf = base58Encode (s.buf0 ++ checksum58 s.buf0) :=
    obuf_of_succeedWithinCapacity (exec_b58cEnc s ▸ hexec) hkind
  refine ⟨_, exec_b58cDec_of_checksum (p := s.buf0) _ ?_ (length_checksum58 s.buf0) rfl, rfl, rfl⟩
  rw [hobuf]
  exact base58Decode_base58Encode _

end Sys2Proof.Proofs
end

section
/-! SUPPORT. What a host script's waits come to (spec/30_encoding.md R101, R104 to R106): on an idle block a load is
taken, an issue is accepted, and the block's turn is the meaning of the command issued. -/

namespace Sys2Proof.Machine

open Sys2Proof.Spec

variable (s : State)

theorem complete_of_decode_ok {i : Instr} (hb : s.status.busy = true) (hd : decodeWord s.cmd = .ok i) :
    complete s = exec i s := by
  simp [complete, completeInFlight, hb, hd]

/-- An issue and the block's turn, on an idle block, are the command's meaning at the state the issue leaves. -/
theorem runCommand_of_idle (i : Instr) (hb : s.status.busy = false) :
    runCommand i s = exec i (issued s (encode i)) := by
  rw [runCommand, performAll_issue_complete_of_idle s _ hb]
  exact complete_of_decode_ok (issued s (encode i)) rfl (decodeWord_encode i)

/-- The same after a load of BUF0 that fits. -/
theorem loadAndRun_of_idle {b : Bytes} (i : Instr) (hb : s.status.busy = false) (hl : b.length ≤ s.cfg.bufCap) :
    loadAndRun b i s = exec i (issued (withBuf0 s b) (encode i)) := by
  rw [loadAndRun, performAll_host_cons, hostStep_loadBuf_zero_of_idle s b hb hl]
  exact runCommand_of_idle (withBuf0 s b) i hb

/-! ### Addresses (R104, R105) -/

/-- The least capacity a block can be built with (spec/00_scope.md R8). -/
theorem le_bufCap_of_wf {c : Config} (h : c.wf = true) : 64 ≤ c.bufCap := by
  simp only [Config.wf, Bool.and_eq_true, decide_eq_true_eq] at h
  exact h.1

/-- A Base58 text is at most 1.366 characters per byte, rounded up. -/
theorem length_base58Encode_lt (b : Bytes) : 1000 * (base58Encode b).length < 1366 * b.length + 1000 := by
  have hlead := leading_le_length 0x00#8 b
  have hdigits := length_digits58_lt b
  rw [base58Encode, leadingCount_eq_leading, List.length_append, List.length_replicate, List.length_reverse,
    List.length_map]
  omega

/-- The text of a payload and its checksum. -/
def addressText (payload : Bytes) : Bytes := base58Encode (payload ++ checksum58 payload)

theorem length_addressText_le {payload : Bytes} (h : payload.length = 21) : (addressText payload).length ≤ 64 := by
  have hlen := length_base58Encode_lt (payload ++ checksum58 payload)
  rw [List.length_append, length_checksum58, h] at hlen
  rw [addressText]
  omega

/-- Where the text of the payload fits, B58C_ENC writes it. -/
theorem exec_b58cEnc_of_fits (h : (addressText s.buf0).length ≤ s.cfg.bufCap) :
    exec .b58cEnc s = .next (done (withObuf s (addressText s.buf0))) :=
  succeedWithinCapacity_of_fits s h

/-- On the text of a payload, B58C_DEC writes the payload (R245). -/
theorem exec_b58cDec_of_addressText {payload : Bytes} (h : s.buf0 = addressText payload) :
    exec .b58cDec s = .next (done (withObuf s payload)) :=
  exec_b58cDec_of_checksum s (h ▸ base58Decode_base58Encode _) (length_checksum58 payload) rfl

theorem toAddress_of_valid {hash : Bytes} {version : Int} (hb : s.status.busy = false) (hcap : 64 ≤ s.cfg.bufCap)
    (hhash : hash.length = 20) (hlo : 0 ≤ version) (hhi : version ≤ 255) :
    ∃ t, toAddress hash version s = .next (t, .bytes (addressText (byteOf version.toNat :: hash))) ∧
      t.status.busy = false ∧ t.cfg = s.cfg := by
  have hlen : (byteOf version.toNat :: hash).length = 21 := congrArg Nat.succ hhash
  have hvalid : ¬ (hash.length ≠ 20 ∨ version < 0 ∨ version > 255) := by omega
  have hrun := loadAndRun_of_idle s (b := byteOf version.toNat :: hash) .b58cEnc hb (by omega)
  rw [exec_b58cEnc_of_fits (issued (withBuf0 s _) _) ((length_addressText_le hlen).trans hcap)] at hrun
  rw [toAddress, if_neg hvalid, hrun]
  exact ⟨_, rfl, rfl, rfl⟩

theorem parseAddress_of_addressText {version : Byte} {hash : Bytes} (hb : s.status.busy = false)
    (hl : (addressText (version :: hash)).length ≤ s.cfg.bufCap) :
    ∃ u, parseAddress (addressText (version :: hash)) s = .next (u, .address version hash) := by
  rw [parseAddress, loadAndRun_of_idle s .b58cDec hb hl, exec_b58cDec_of_addressText _ rfl]
  exact ⟨_, rfl⟩

/-! ### Hex or Base58Check (R106) -/

/-- A B58C_DEC without a cause of failure reads a payload with its checksum behind it. -/
theorem checksum_of_causeOf_b58cDec (h : causeOf .b58cDec s = none) :
    ∃ p c, base58Decode s.buf0 = some (p ++ c) ∧ c.length = 4 ∧ checksum58 p = c := by
  simp only [causeOf, any_not_alphabet_iff_base58Decode_eq_none, checkedCause] at h
  split_ifs at h with hchar
  cases hdec : base58Decode s.buf0 with
  | none => exact (hchar hdec).elim
  | some d =>
    rw [hdec] at h
    simp only at h
    split_ifs at h with hshort hsum
    refine ⟨d.take (d.length - 4), d.drop (d.length - 4), ?_, ?_, not_not.1 hsum⟩
    · rw [List.take_append_drop]
    · rw [List.length_drop]
      omega

/-- Every command with a cause of failure leaves all but STATUS. -/
theorem exec_of_causeOf_ne_none {i : Instr} (h : causeOf i s ≠ none) :
    ∃ k d, k ≠ 0 ∧ exec i s = .next (failed s k d) := by
  have hcompletes := exec_completes s i
  generalize causeOf i s = cause at h hcompletes
  generalize exec i s = o at hcompletes ⊢
  cases hcompletes with
  | error d => exact ⟨d.kind.code, d.code, d.kind_code_ne_zero, rfl⟩
  | success => exact (h rfl).elim

theorem exec_of_causeOf_eq_none {i : Instr} (h : causeOf i s = none) :
    ∃ t, exec i s = .next t ∧ t.status = (done s).status :=
  (h ▸ exec_completes s i).exists_done

variable {s} {data : Bytes}

/-- Hex that can be read is the script's value. -/
theorem parseHexOrB58_of_hex (hb : s.status.busy = false) (hl : data.length ≤ s.cfg.bufCap)
    (hhex : causeOf .hex2bin (withBuf0 s data) = none) :
    ∃ t, parseHexOrB58 data s = .next (t, .bytes t.obuf) ∧
      exec .hex2bin (issued (withBuf0 s data) (encode .hex2bin)) = .next t := by
  obtain ⟨t, hexec, hstatus⟩ := exec_of_causeOf_eq_none (i := .hex2bin) (issued (withBuf0 s data) (encode .hex2bin)) hhex
  have hkind : t.status.kind = 0 := by rw [hstatus]; rfl
  refine ⟨t, ?_, hexec⟩
  rw [parseHexOrB58, loadAndRun_of_idle s .hex2bin hb hl, hexec]
  exact if_pos hkind

/-- Where the hex cannot be read, the script is B58C_DEC in the state the failed HEX2BIN leaves. -/
theorem parseHexOrB58_of_not_hex (hb : s.status.busy = false) (hl : data.length ≤ s.cfg.bufCap)
    (hhex : causeOf .hex2bin (withBuf0 s data) ≠ none) :
    ∃ k d, parseHexOrB58 data s =
      andThen (exec .b58cDec (issued (failed (issued (withBuf0 s data) (encode .hex2bin)) k d) (encode .b58cDec))) fun u =>
        if u.status.kind = 0 then .next (u, .bytes u.obuf) else .next (u, .noValue) := by
  obtain ⟨k, d, hk, hexec⟩ := exec_of_causeOf_ne_none (i := .hex2bin) (issued (withBuf0 s data) (encode .hex2bin)) hhex
  have hkind : (failed (issued (withBuf0 s data) (encode .hex2bin)) k d).status.kind ≠ 0 := hk
  refine ⟨k, d, ?_⟩
  rw [parseHexOrB58, loadAndRun_of_idle s .hex2bin hb hl, hexec, ← runCommand_of_idle _ .b58cDec rfl]
  exact if_neg hkind

end Sys2Proof.Machine
end

section
/-! PROOFS. The statements about the host scripts (spec/30_encoding.md R104 to R106). -/

namespace Sys2Proof.Proofs

open Sys2Proof Sys2Proof.Machine Sys2Proof.Spec

/-- Settles O57: the text of 25 bytes fits the least capacity, and B58C_DEC of it gives back the version byte and the
hash. -/
theorem parsedAddressIsTheOneBuilt : Obligations.ParsedAddressIsTheOneBuilt := by
  intro s hash version hidle hwf hhash hlo hhi
  have hcap := le_bufCap_of_wf hwf
  obtain ⟨t, hbuilt, hidle', hcfg⟩ := toAddress_of_valid s hidle hcap hhash hlo hhi
  have hfit := (length_addressText_le (payload := byteOf version.toNat :: hash) (congrArg Nat.succ hhash)).trans hcap
  obtain ⟨u, hparsed⟩ := parseAddress_of_addressText t hidle' (hcfg ▸ hfit)
  exact ⟨t, _, u, hbuilt, hparsed⟩

/-- Settles O58: the issue of B58C_DEC puts STATUS as it was but for ESTK, which the failed HEX2BIN has set, and no cause
of B58C_DEC depends on ESTK. -/
theorem hexOrBase58TriesHexFirst : Obligations.HexOrBase58TriesHexFirst := by
  intro s data hidle hfit
  refine ⟨parseHexOrB58_of_hex hidle hfit, fun hhex h58 => ?_, fun hhex h58 => ?_⟩
  all_goals
    obtain ⟨k, d, hscript⟩ := parseHexOrB58_of_not_hex hidle hfit hhex
    set u := issued (failed (issued (withBuf0 s data) (encode .hex2bin)) k d) (encode .b58cDec)
  · obtain ⟨p, c, hdec, hc, hsum⟩ := checksum_of_causeOf_b58cDec (withBuf0 s data) h58
    rw [hscript, exec_b58cDec_of_checksum u hdec hc hsum]
    exact ⟨_, rfl, rfl, exec_b58cDec_of_checksum (issued (withBuf0 s data) (encode .b58cDec)) hdec hc hsum⟩
  · obtain ⟨k', d', hk', hexec⟩ := exec_of_causeOf_ne_none (i := .b58cDec) u h58
    rw [hscript, hexec]
    exact ⟨_, if_neg hk', rfl, rfl⟩

end Sys2Proof.Proofs
end

section
/-! SUPPORT. Two states that agree on what a command reads (spec/30_encoding.md R95), place by place. -/

namespace Sys2Proof.Spec

open Sys2Proof.Machine

variable {i : Instr} {s u : State}

theorem agreeOnOperands.refl (i : Instr) (s : State) : agreeOnOperands i s s :=
  ⟨rfl, fun _ _ => rfl, fun _ => rfl, fun _ => rfl⟩

theorem agreeOnOperands.cfg_eq (h : agreeOnOperands i s u) : s.cfg = u.cfg := h.1

theorem agreeOnOperands.arg_eq (h : agreeOnOperands i s u) (k : Nat) (hk : k ∈ i.argRegs := by decide) :
    s.arg k = u.arg k := h.2.1 k hk

theorem agreeOnOperands.buf0_eq (h : agreeOnOperands i s u) (hi : i ≠ .viEnc := by decide) : s.buf0 = u.buf0 :=
  h.2.2.1 hi

theorem agreeOnOperands.len0_eq (h : agreeOnOperands i s u) (hi : i ≠ .viEnc := by decide) : s.len0 = u.len0 :=
  congrArg List.length (h.buf0_eq hi)

theorem agreeOnOperands.buf1_eq (h : agreeOnOperands .sha256d2 s u) : s.buf1 = u.buf1 := h.2.2.2 rfl

end Sys2Proof.Spec
end

section
/-! SUPPORT. The effect of a command (spec/00_scope.md R16; spec/30_encoding.md R95): at two states that agree on what it
reads, a command raises the same cause or writes the same values to its own result places. With one state taken twice
this is the command's frame. -/

namespace Sys2Proof.Machine

open Sys2Proof.Spec

/-- The two outcomes a command has at `s` and at `u`, with one effect: the same cause raised, or the same value written to
a result place of its own, which fits the block where `s` does (spec/20_memory.md R61). -/
inductive SameEffect (i : Instr) (s u : State) :
    Host.Outcome State Fault Refusal → Host.Outcome State Fault Refusal → Prop where
  | error (d : ErrorDetail) : SameEffect i s u (raise d s) (raise d u)
  | buf0 {b : Bytes} (hplace : i ∈ buf0Writers) (hlen : b.length = s.len0)
      (hframe : ∀ a, ¬ storesAt i s a → b[a]? = s.buf0[a]?) :
      SameEffect i s u (succeed (s.setBuf0 b)) (succeed (u.setBuf0 b))
  | obuf {out : Bytes} (hplace : i ∈ obufWriters)
      (hfit : 64 ≤ s.cfg.bufCap → s.len0 ≤ s.cfg.bufCap → out.length ≤ s.cfg.bufCap) :
      SameEffect i s u (succeedWithObuf s out) (succeedWithObuf u out)
  | res0 {v : Word} (hplace : i ∈ res0Writers) (hone : i ≠ .viDec) :
      SameEffect i s u (succeed (s.setRes0 v)) (succeed (u.setRes0 v))
  | results {v n : Word} (hplace : i = .viDec) :
      SameEffect i s u (succeed ((s.setRes0 v).setRes1 n)) (succeed ((u.setRes0 v).setRes1 n))

variable {i : Instr} {s u : State} {o o' : Host.Outcome State Fault Refusal}

/-! ### Rules -/

/-- A check both runs decide alike. -/
theorem SameEffect.check {p q : Prop} [Decidable p] [Decidable q] (hpq : p ↔ q) (d : ErrorDetail)
    (hrest : SameEffect i s u o o') :
    SameEffect i s u (if p then raise d s else o) (if q then raise d u else o') := by
  by_cases hp : p
  · rw [if_pos hp, if_pos (hpq.1 hp)]
    exact .error d
  · rwa [if_neg hp, if_neg (mt hpq.2 hp)]

/-- A bounds check both runs decide alike, after which the range is in bounds. -/
theorem SameEffect.bounds {b : Bytes} {off n : Nat} (hrest : off + n ≤ b.length → SameEffect i s u o o') :
    SameEffect i s u (if inBounds b off n then o else raise .outOfBounds s)
      (if inBounds b off n then o' else raise .outOfBounds u) := by
  by_cases hin : inBounds b off n = true
  · rw [if_pos hin, if_pos hin]
    exact hrest ((inBounds_eq_true b off n).1 hin)
  · rw [if_neg hin, if_neg hin]
    exact .error .outOfBounds

/-- A capacity check both runs decide alike. -/
theorem SameEffect.withinCapacity {out : Bytes} (hcfg : s.cfg = u.cfg) (hplace : i ∈ obufWriters) :
    SameEffect i s u (succeedWithinCapacity s out) (succeedWithinCapacity u out) := by
  rw [succeedWithinCapacity, succeedWithinCapacity, ← hcfg]
  split
  case isTrue => exact .error .capacity
  case isFalse hfit => exact .obuf hplace fun _ _ => Nat.not_lt.1 hfit

/-! ### The BYTEORDER unit -/

theorem writeInteger_sameEffect {w : Nat} {enc : Nat → Nat → Bytes} (henc : ∀ v, (enc w v).length = w)
    (harg0 : s.arg0 = u.arg0) (harg1 : s.arg1 = u.arg1) (hbuf : s.buf0 = u.buf0)
    (hplace : i ∈ buf0Writers) (hstores : ∀ a, storesAt i s a ↔ u64 s.arg1 ≤ a ∧ a < u64 s.arg1 + w) :
    SameEffect i s u (writeInteger w enc s) (writeInteger w enc u) := by
  rw [writeInteger, writeInteger, ← harg0, ← harg1, ← hbuf]
  refine .bounds fun hin => ?_
  have hfit : u64 s.arg1 + (enc w (lowBytes w s.arg0)).length ≤ s.buf0.length := by rwa [henc]
  refine .buf0 hplace (length_memWrite _ _ _ hfit) fun a ha => ?_
  rw [hstores] at ha
  exact getElem?_memWrite_outside _ _ _ a hfit (by rw [henc]; omega)

theorem readInteger_sameEffect {w : Nat} {dec : Bytes → Nat} (harg1 : s.arg1 = u.arg1) (hbuf : s.buf0 = u.buf0)
    (hplace : i ∈ res0Writers) (hone : i ≠ .viDec) :
    SameEffect i s u (readInteger w dec s) (readInteger w dec u) := by
  rw [readInteger, readInteger, ← harg1, ← hbuf]
  exact .bounds fun _ => .res0 hplace hone

/-! ### The lengths of the results -/

/-- A text decodes to no more bytes than it has characters. -/
theorem length_base58Decode_le {text d : Bytes} (h : base58Decode text = some d) : d.length ≤ text.length := by
  by_cases halphabet : ∀ c ∈ text, c ∈ alphabet
  · obtain ⟨ds, hlt, rfl⟩ := exists_digits_of_alphabet halphabet
    rw [base58Decode_map_alpha58 hlt, Option.some.injEq] at h
    rw [← h, List.length_append, List.length_replicate, List.length_map]
    exact leading_add_length_shortestBE_le hlt
  · push Not at halphabet
    rw [base58Decode_of_bad_char halphabet] at h
    cases h

theorem length_viEncode_le (v : Nat) : (viEncode v).length ≤ 9 := by
  rw [length_viEncode, viSize]
  split_ifs <;> decide

/-! ### The commands -/

theorem exec_revdw_sameEffect (h : agreeOnOperands .revdw s u) :
    SameEffect .revdw s u (exec .revdw s) (exec .revdw u) := by
  have harg0 : s.arg0 = u.arg0 := h.arg_eq 0
  rw [exec, exec, execRevdw, execRevdw, ← harg0, ← h.len0_eq, ← h.buf0_eq]
  refine .check Iff.rfl _ (.check Iff.rfl _ (.obuf (by decide) fun _ hlen => ?_))
  rw [length_swapDwords]
  exact (trimmedLength_le _ _).trans hlen

theorem exec_bitchk_sameEffect (h : agreeOnOperands .bitchk s u) :
    SameEffect .bitchk s u (exec .bitchk s) (exec .bitchk u) := by
  have harg1 : s.arg1 = u.arg1 := h.arg_eq 1
  rw [exec, exec, execBitchk, execBitchk, ← harg1, ← h.len0_eq, ← h.buf0_eq]
  exact .check Iff.rfl _ (.res0 (by decide) (by decide))

theorem exec_bitset_sameEffect (h : agreeOnOperands .bitset s u) :
    SameEffect .bitset s u (exec .bitset s) (exec .bitset u) := by
  have harg1 : s.arg1 = u.arg1 := h.arg_eq 1
  rw [exec, exec, execBitset, execBitset, ← harg1, ← h.len0_eq, ← h.buf0_eq]
  by_cases hout : u64 s.arg1 >>> 3 ≥ s.len0
  · rw [if_pos hout, if_pos hout]
    exact .error .outOfBounds
  · rw [if_neg hout, if_neg hout]
    have hfit : u64 s.arg1 >>> 3 + [byteWithBit s.buf0 (u64 s.arg1)].length ≤ s.buf0.length := Nat.not_le.1 hout
    refine .buf0 (by decide) (length_memWrite _ _ _ hfit) fun a ha => ?_
    exact getElem?_memWrite_outside _ _ _ a hfit (Nat.lt_or_gt_of_ne ha)

theorem exec_hex2bin_sameEffect (h : agreeOnOperands .hex2bin s u) :
    SameEffect .hex2bin s u (exec .hex2bin s) (exec .hex2bin u) := by
  rw [exec, exec, execHex2bin, execHex2bin, ← h.cfg_eq, ← h.len0_eq, ← h.buf0_eq]
  refine .check Iff.rfl _ ?_
  cases hdigits : mapAll (hexVal s.cfg.hexUpperOk) s.buf0 with
  | none => exact .error .hexBadDigit
  | some ds =>
    refine .obuf (by decide) fun _ hlen => ?_
    rw [length_joinNibbles, length_mapAll hdigits]
    exact (Nat.div_le_self _ 2).trans hlen

theorem exec_bin2hex_sameEffect (h : agreeOnOperands .bin2hex s u) :
    SameEffect .bin2hex s u (exec .bin2hex s) (exec .bin2hex u) := by
  rw [exec, exec, execBin2hex, execBin2hex, ← h.cfg_eq, ← h.len0_eq, ← h.buf0_eq]
  split
  case isTrue => exact .error .capacity
  case isFalse hfit => exact .obuf (by decide) fun _ _ => (length_hexText s.buf0).trans_le (Nat.not_lt.1 hfit)

/-- A digest always fits: 32 bytes. -/
theorem SameEffect.digest (hplace : i ∈ obufWriters) (m : Bytes) :
    SameEffect i s u (succeedWithObuf s (sha256Digest m)) (succeedWithObuf u (sha256Digest m)) :=
  .obuf hplace fun hcap _ => by rw [length_sha256Digest]; omega

theorem exec_sha256_sameEffect (h : agreeOnOperands .sha256 s u) :
    SameEffect .sha256 s u (exec .sha256 s) (exec .sha256 u) := by
  have harg1 : s.arg1 = u.arg1 := h.arg_eq 1
  have harg2 : s.arg2 = u.arg2 := h.arg_eq 2
  rw [exec, exec, execSha256, execSha256, ← harg1, ← harg2, ← h.buf0_eq]
  exact .bounds fun _ => .digest (by decide) _

theorem exec_sha256d_sameEffect (h : agreeOnOperands .sha256d s u) :
    SameEffect .sha256d s u (exec .sha256d s) (exec .sha256d u) := by
  have harg1 : s.arg1 = u.arg1 := h.arg_eq 1
  have harg2 : s.arg2 = u.arg2 := h.arg_eq 2
  rw [exec, exec, execSha256d, execSha256d, ← harg1, ← harg2, ← h.buf0_eq]
  exact .bounds fun _ => .digest (by decide) _

theorem exec_sha256d2_sameEffect (h : agreeOnOperands .sha256d2 s u) :
    SameEffect .sha256d2 s u (exec .sha256d2 s) (exec .sha256d2 u) := by
  have harg1 : s.arg1 = u.arg1 := h.arg_eq 1
  have harg2 : s.arg2 = u.arg2 := h.arg_eq 2
  have harg3 : s.arg3 = u.arg3 := h.arg_eq 3
  have harg4 : s.arg4 = u.arg4 := h.arg_eq 4
  rw [exec, exec, execSha256d2, execSha256d2, ← harg1, ← harg2, ← harg3, ← harg4, ← h.buf0_eq, ← h.buf1_eq]
  exact .bounds fun _ => .bounds fun _ => .digest (by decide) _

theorem exec_viDec_sameEffect (h : agreeOnOperands .viDec s u) :
    SameEffect .viDec s u (exec .viDec s) (exec .viDec u) := by
  rw [exec, exec, execViDec, execViDec, ← h.buf0_eq]
  cases s.buf0 with
  | nil => exact .error .varintTruncated
  | cons p rest => exact .check Iff.rfl _ (.results rfl)

theorem exec_b58Dec_sameEffect (h : agreeOnOperands .b58Dec s u) :
    SameEffect .b58Dec s u (exec .b58Dec s) (exec .b58Dec u) := by
  rw [exec, exec, execB58Dec, execB58Dec, ← h.buf0_eq]
  cases hdec : base58Decode s.buf0 with
  | none => exact .error .b58BadChar
  | some d => exact .obuf (by decide) fun _ hlen => (length_base58Decode_le hdec).trans hlen

theorem exec_b58cDec_sameEffect (h : agreeOnOperands .b58cDec s u) :
    SameEffect .b58cDec s u (exec .b58cDec s) (exec .b58cDec u) := by
  rw [exec, exec, execB58cDec, execB58cDec, ← h.buf0_eq]
  cases hdec : base58Decode s.buf0 with
  | none => exact .error .b58BadChar
  | some d =>
    refine .check Iff.rfl _ (.check Iff.rfl _ (.obuf (by decide) fun _ hlen => ?_))
    exact (List.length_take_le' _ d).trans ((length_base58Decode_le hdec).trans hlen)

/-- Every command has one effect at states that agree on what it reads (spec/00_scope.md R16). -/
theorem exec_sameEffect (h : agreeOnOperands i s u) : SameEffect i s u (exec i s) (exec i u) := by
  cases i with
  | wr16be | wr32be | wr64be =>
    exact writeInteger_sameEffect (length_beBytes _) (h.arg_eq 0) (h.arg_eq 1) h.buf0_eq (by decide) fun _ => Iff.rfl
  | wr16le | wr32le | wr64le =>
    exact writeInteger_sameEffect (length_leBytes _) (h.arg_eq 0) (h.arg_eq 1) h.buf0_eq (by decide) fun _ => Iff.rfl
  | rd16be | rd16le | rd32be | rd32le | rd64be | rd64le =>
    exact readInteger_sameEffect (h.arg_eq 1) h.buf0_eq (by decide) (by decide)
  | revb =>
    rw [exec, exec, execRevb, execRevb, ← h.buf0_eq]
    exact .obuf (by decide) fun _ hlen => List.length_reverse.trans_le hlen
  | revdw => exact exec_revdw_sameEffect h
  | bitchk => exact exec_bitchk_sameEffect h
  | bitset => exact exec_bitset_sameEffect h
  | hex2bin => exact exec_hex2bin_sameEffect h
  | bin2hex => exact exec_bin2hex_sameEffect h
  | sha256 => exact exec_sha256_sameEffect h
  | sha256d => exact exec_sha256d_sameEffect h
  | sha256d2 => exact exec_sha256d2_sameEffect h
  | hash160 =>
    rw [exec, exec, execHash160, execHash160, ← h.buf0_eq]
    exact .obuf (by decide) fun hcap _ => by rw [length_hash160Digest]; omega
  | viEnc =>
    have harg0 : s.arg0 = u.arg0 := h.arg_eq 0
    rw [exec, exec, execViEnc, execViEnc, ← harg0]
    exact .obuf (by decide) fun hcap _ => (length_viEncode_le _).trans (by omega)
  | viDec => exact exec_viDec_sameEffect h
  | b58Enc =>
    rw [exec_b58Enc, exec_b58Enc, ← h.buf0_eq]
    exact .withinCapacity h.cfg_eq (by decide)
  | b58Dec => exact exec_b58Dec_sameEffect h
  | b58cEnc =>
    rw [exec_b58cEnc, exec_b58cEnc, ← h.buf0_eq]
    exact .withinCapacity h.cfg_eq (by decide)
  | b58cDec => exact exec_b58cDec_sameEffect h

end Sys2Proof.Machine
end

section
/-! SUPPORT. What the effect of a command and the block's turn leave as they were (spec/10_state.md R22, R23, R30, R44;
spec/30_encoding.md R95), and what a step does by the head of the schedule. -/

namespace Sys2Proof.Machine

open Sys2Proof.Spec

variable {i : Instr} {s u s' u' : State} {o o' : Host.Outcome State Fault Refusal}

/-! ### The frame of an effect -/

/-- Each command has one kind of result place. -/
theorem not_mem_other_places :
    (∀ i ∈ buf0Writers, i ∉ obufWriters ∧ i ∉ res0Writers ∧ i ≠ .viDec) ∧
    (∀ i ∈ obufWriters, i ∉ buf0Writers ∧ i ∉ res0Writers ∧ i ≠ .viDec) ∧
    (∀ i ∈ res0Writers, i ∉ buf0Writers ∧ i ∉ obufWriters) := by
  decide

theorem SameEffect.onlyResultsChanged (h : SameEffect i s u o o') (ho : o = .next s') : onlyResultsChanged i s s' := by
  cases h with
  | error d =>
    cases ho
    exact ⟨rfl, rfl, fun _ => rfl, rfl, rfl, rfl, rfl, fun _ _ => rfl, fun _ => rfl, fun _ => rfl, fun _ => rfl,
      fun _ => rfl⟩
  | buf0 hplace hlen hframe =>
    cases ho
    exact ⟨rfl, rfl, fun _ => rfl, rfl, hlen, rfl, rfl, hframe, fun hnot => (hnot hplace).elim, fun _ => rfl,
      fun _ => rfl, fun _ => rfl⟩
  | obuf hplace =>
    cases ho
    exact ⟨rfl, rfl, fun _ => rfl, rfl, rfl, rfl, rfl, fun _ _ => rfl, fun _ => rfl, fun hnot => (hnot hplace).elim,
      fun _ => rfl, fun _ => rfl⟩
  | res0 hplace =>
    cases ho
    exact ⟨rfl, rfl, fun _ => rfl, rfl, rfl, rfl, rfl, fun _ _ => rfl, fun _ => rfl, fun _ => rfl,
      fun hnot => (hnot hplace).elim, fun _ => rfl⟩
  | results hplace =>
    cases ho
    exact ⟨rfl, rfl, fun _ => rfl, rfl, rfl, rfl, rfl, fun _ _ => rfl, fun _ => rfl, fun _ => rfl,
      fun hnot => (hnot (hplace ▸ by decide)).elim, fun hnot => (hnot hplace).elim⟩

/-- The frame of every command. -/
theorem exec_onlyResultsChanged (h : exec i s = .next s') : onlyResultsChanged i s s' :=
  (exec_sameEffect (.refl i s)).onlyResultsChanged h

/-- Two runs with one effect end with the same codes and the same values in the result places. -/
theorem SameEffect.results_eq (h : SameEffect i s u o o') (hs : o = .next s') (hu : o' = .next u')
    (hbuf : i ∈ buf0Writers → s.buf0 = u.buf0) :
    s'.status.kind = u'.status.kind ∧ s'.status.detail = u'.status.detail ∧
    (i ∈ buf0Writers → s'.buf0 = u'.buf0) ∧
    (s'.status.kind = 0 →
      (i ∈ obufWriters → s'.obuf = u'.obuf) ∧ (i ∈ res0Writers → s'.res0 = u'.res0) ∧
      (i = .viDec → s'.res1 = u'.res1)) := by
  obtain ⟨hofBuf0, hofObuf, hofRes0⟩ := not_mem_other_places
  cases h with
  | error d =>
    cases hs; cases hu
    exact ⟨rfl, rfl, hbuf, fun hkind => (d.kind_code_ne_zero hkind).elim⟩
  | buf0 hplace =>
    obtain ⟨hobuf, hres0, hres1⟩ := hofBuf0 i hplace
    cases hs; cases hu
    exact ⟨rfl, rfl, fun _ => rfl, fun _ => ⟨fun h => (hobuf h).elim, fun h => (hres0 h).elim, fun h => (hres1 h).elim⟩⟩
  | obuf hplace =>
    obtain ⟨-, hres0, hres1⟩ := hofObuf i hplace
    cases hs; cases hu
    exact ⟨rfl, rfl, hbuf, fun _ => ⟨fun _ => rfl, fun h => (hres0 h).elim, fun h => (hres1 h).elim⟩⟩
  | res0 hplace hone =>
    obtain ⟨-, hobuf⟩ := hofRes0 i hplace
    cases hs; cases hu
    exact ⟨rfl, rfl, hbuf, fun _ => ⟨fun h => (hobuf h).elim, fun _ => rfl, fun h => (hone h).elim⟩⟩
  | results hplace =>
    obtain ⟨-, hobuf⟩ := hofRes0 i (hplace ▸ by decide)
    cases hs; cases hu
    exact ⟨rfl, rfl, hbuf, fun _ => ⟨fun h => (hobuf h).elim, fun _ => rfl, fun _ => rfl⟩⟩

/-- What a command leaves in OBUF fits the block where what it found there did. -/
theorem SameEffect.olen_le (h : SameEffect i s u o o') (ho : o = .next s') (hcap : 64 ≤ s.cfg.bufCap)
    (hlen : s.len0 ≤ s.cfg.bufCap) (hobuf : s.olen ≤ s.cfg.bufCap) : s'.olen ≤ s.cfg.bufCap := by
  cases h with
  | obuf _ hfit => cases ho; exact hfit hcap hlen
  | error | buf0 | res0 | results => cases ho; exact hobuf

/-- No command can leave a buffer longer than its capacity (spec/10_state.md R23). -/
theorem exec_keeps_memory_wf (h : exec i s = .next s') (hcap : 64 ≤ s.cfg.bufCap) (hs : s.mem.wf s.cfg = true) :
    s'.mem.wf s.cfg = true := by
  obtain ⟨-, -, -, hbuf1, hlen0, -⟩ := exec_onlyResultsChanged h
  rw [Memory.wf_iff] at hs ⊢
  obtain ⟨h0, h1, hobuf⟩ := hs
  exact ⟨hlen0.trans_le h0, (congrArg List.length hbuf1).trans_le h1, (exec_sameEffect (.refl i s)).olen_le h hcap h0 hobuf⟩

/-! ### STATUS -/

theorem Status.legal_succeeded (t : Status) : t.succeeded.legal = true := rfl

theorem Status.legal_failed (d : ErrorDetail) : (Status.failed d).legal = true := by cases d <;> decide

theorem Status.legal_issued (t : Status) : t.issued.legal = true := rfl

theorem Status.legal_stickyCleared (t : Status) : t.stickyCleared.legal = t.legal := rfl

/-! ### The block's turn -/

theorem complete_of_idle (hb : s.status.busy = false) : complete s = .next s := by simp [complete, hb]

/-- What the block's turn keeps, whatever command is in flight. -/
structure TurnKeeps (s t : State) : Prop where
  cfg_eq : t.cfg = s.cfg
  schedule_eq : t.schedule = s.schedule
  idle : t.status.busy = false
  estk : s.status.estk = true → t.status.estk = true
  legal : s.status.legal = true → t.status.legal = true
  memory_wf : 64 ≤ s.cfg.bufCap → s.mem.wf s.cfg = true → t.mem.wf s.cfg = true

/-- A command completes within what a turn keeps. -/
theorem exec_turnKeeps (i : Instr) (s : State) : ∃ t, exec i s = .next t ∧ TurnKeeps s t := by
  have hcompletes := exec_completes s i
  obtain ⟨t, ht, hidle, -, hstatus⟩ := hcompletes.succeeds_or_changes_only_status
  have hmem := exec_keeps_memory_wf ht
  obtain ⟨hcfg, -, -, -, -, hschedule, -⟩ := exec_onlyResultsChanged ht
  refine ⟨t, ht, hcfg, hschedule, hidle, fun hestk => ?_, fun _ => ?_, hmem⟩
  · obtain ⟨-, -, hkept⟩ | ⟨-, hfailed⟩ := hstatus
    · rw [hkept, hestk]
    · rw [hfailed]; rfl
  · rw [ht] at hcompletes
    generalize causeOf i s = cause at hcompletes
    cases hcompletes with
    | error d => exact Status.legal_failed d
    | success => exact Status.legal_succeeded _

/-- The block's turn answers a next state, within what a turn keeps (R44). -/
theorem exists_complete (s : State) : ∃ t, complete s = .next t ∧ TurnKeeps s t := by
  obtain ⟨-, i, -, hexec⟩ | ⟨-, -, hillegal⟩ | ⟨hidle, hnothing⟩ := complete_cases s
  · rw [hexec]
    exact exec_turnKeeps i s
  · exact ⟨_, hillegal, rfl, rfl, rfl, fun _ => rfl, fun _ => rfl, fun _ hwf => hwf⟩
  · exact ⟨s, hnothing, rfl, rfl, hidle, id, id, fun _ hwf => hwf⟩

theorem complete_turnKeeps (h : complete s = .next s') : TurnKeeps s s' := by
  obtain ⟨t, ht, hkeeps⟩ := exists_complete s
  rw [ht] at h
  cases h
  exact hkeeps

/-! ### Host operations -/

theorem hostStep_keeps_memory_wf (op : HostOp) (hs : s.mem.wf s.cfg = true) : (hostStep op s).mem.wf s.cfg = true := by
  cases op with
  | writeArg i v =>
    cases hb : s.status.busy
    · rwa [hostStep_writeArg_of_idle s i v hb, State.setArg_mem]
    · rwa [hostStep_writeArg_of_busy s i v hb]
  | loadBuf n b => exact hostLoadBuf_wf n b s hs
  | issue w =>
    cases hb : s.status.busy
    · rwa [hostStep_issue_of_idle s w hb]
    · rwa [hostStep_issue_of_busy s w hb]
  | read | clearSticky => exact hs

/-- What a host operation does to STATUS: nothing but at an issue it accepts and at HostClearSticky (R42, R46). -/
theorem hostStep_status_cases (op : HostOp) (s : State) :
    (hostStep op s).status = s.status ∨
    ((∃ w, op = .issue w) ∧ (hostStep op s).status = s.status.issued) ∨
    (op = .clearSticky ∧ (hostStep op s).status = s.status.stickyCleared) := by
  obtain h | ⟨-, i, v, -, h⟩ | ⟨-, b, -, -, h⟩ | ⟨-, b, -, -, h⟩ | ⟨-, w, hop, h⟩ | ⟨r, -, h⟩ | ⟨hop, h⟩ :=
    hostStep_cases op s
  · exact .inl (by rw [h])
  · exact .inl (by rw [h, State.setArg_status])
  · exact .inl (by rw [h, State.setBuf0_status])
  · exact .inl (by rw [h, State.setBuf1_status])
  · exact .inr (.inl ⟨⟨w, hop⟩, by rw [h, State.setStatus_status]⟩)
  · exact .inl (by rw [h])
  · exact .inr (.inr ⟨hop, by rw [h, State.setStatus_status]⟩)

theorem hostStep_keeps_status_legal (op : HostOp) (hs : s.status.legal = true) :
    (hostStep op s).status.legal = true := by
  obtain h | ⟨-, h⟩ | ⟨-, h⟩ := hostStep_status_cases op s
  · rwa [h]
  · rw [h, Status.legal_issued]
  · rwa [h, Status.legal_stickyCleared]

/-- Only HostClearSticky clears ESTK at the host port (spec/70_reset_and_hazards.md R321). -/
theorem hostStep_keeps_estk {op : HostOp} (hop : op ≠ .clearSticky) (hs : s.status.estk = true) :
    (hostStep op s).status.estk = true := by
  obtain h | ⟨-, h⟩ | ⟨hclear, -⟩ := hostStep_status_cases op s
  · rwa [h]
  · rwa [h, Status.issued_estk]
  · exact (hop hclear).elim

/-- Only an issue changes KIND, DETAIL or DONE at the host port (spec/60_exceptions.md R292). -/
theorem hostStep_keeps_codes {op : HostOp} (hop : ∀ w, op ≠ .issue w) :
    (hostStep op s).status.kind = s.status.kind ∧ (hostStep op s).status.detail = s.status.detail ∧
    (hostStep op s).status.done = s.status.done := by
  obtain h | ⟨⟨w, hissue⟩, -⟩ | ⟨-, h⟩ := hostStep_status_cases op s
  · rw [h]
    exact ⟨rfl, rfl, rfl⟩
  · exact (hop w hissue).elim
  · rw [h]
    exact ⟨rfl, rfl, rfl⟩

/-! ### Steps -/

theorem step_of_schedule_nil (s : State) (h : s.schedule = []) : step s = complete s := by
  unfold step nextStep
  rw [h]

theorem step_of_schedule_cons (s : State) {e : Event} {rest : List Event} (h : s.schedule = e :: rest) :
    step s = perform e (s.setSchedule rest) := by
  unfold step nextStep
  rw [h]

/-- A step by the head of the schedule, on the state with the head taken off. -/
theorem step_cases_of_head (s : State) :
    ((s.schedule = [] ∨ s.schedule.head? = some .complete) ∧ step s = complete (s.setSchedule s.schedule.tail)) ∨
    (s.schedule.head? = some .reset ∧ step s = .next (resetBlock (s.setSchedule s.schedule.tail))) ∨
    (∃ op, s.schedule.head? = some (.host op) ∧ step s = .next (hostStep op (s.setSchedule s.schedule.tail))) := by
  obtain ⟨h, hstep⟩ | ⟨rest, h, hstep⟩ | ⟨rest, h, hstep⟩ | ⟨op, rest, h, hstep⟩ := step_cases s
  · have hself : s.setSchedule s.schedule.tail = s := by ext1 <;> simp [h]
    exact .inl ⟨.inl h, by rw [hstep, hself]⟩
  · exact .inl ⟨.inr (by rw [h]; rfl), by rw [hstep, h]; rfl⟩
  · exact .inr (.inl ⟨by rw [h]; rfl, by rw [hstep, h]; rfl⟩)
  · exact .inr (.inr ⟨op, by rw [h]; rfl, by rw [hstep, h]; rfl⟩)

/-- Every step answers a next state and takes the head off the schedule. -/
theorem exists_step (s : State) : ∃ t, step s = .next t ∧ t.schedule = s.schedule.tail ∧ t.cfg = s.cfg := by
  obtain ⟨-, hstep⟩ | ⟨-, hstep⟩ | ⟨op, -, hstep⟩ := step_cases_of_head s
  · obtain ⟨t, ht, hkeeps⟩ := exists_complete (s.setSchedule s.schedule.tail)
    exact ⟨t, hstep.trans ht, hkeeps.schedule_eq, hkeeps.cfg_eq⟩
  · exact ⟨_, hstep, rfl, rfl⟩
  · exact ⟨_, hstep, hostStep_schedule op _, hostStep_cfg op _⟩

/-- A run as long as the schedule is the schedule performed to its end. -/
theorem exists_run_of_schedule {n : Nat} (hn : s.schedule.length = n) :
    ∃ t, Sys2Proof.core.run (n + 1) s = Sys2Proof.core.run 1 t ∧ t.schedule = [] := by
  induction n generalizing s with
  | zero => exact ⟨s, rfl, List.length_eq_zero_iff.1 hn⟩
  | succ n ih =>
    obtain ⟨t, hstep, hschedule, -⟩ := exists_step s
    rw [run_succ s (n + 1) t hstep]
    exact ih (by rw [hschedule, List.length_tail, hn, Nat.add_sub_cancel])

/-! ### Several blocks (spec/60_exceptions.md R304) -/

/-- Where the step of a block answers a next state, that block is replaced and no other. -/
theorem stepInstance_of_step {k : Nat} {xs : Instances} {s t : State} (hk : xs[k]? = some s) (ht : step s = .next t) :
    stepInstance k xs = .next (xs.set k t) := by
  rw [stepInstance, hk]
  simp only [ht]

theorem stepInstance_of_none {k : Nat} {xs : Instances} (hk : xs[k]? = none) : stepInstance k xs = .next xs := by
  rw [stepInstance, hk]

/-! ### Failure classes (spec/60_exceptions.md R287) -/

/-- The kind a command completes with is that of its row of the cause table, or that of success. -/
theorem kind_of_exec (h : exec i s = .next s') :
    s'.status.kind = 0 ∨ ∃ d, causeOf i s = some (s'.status.kind, d) := by
  have hcompletes := exec_completes s i
  rw [h] at hcompletes
  generalize causeOf i s = cause at hcompletes ⊢
  cases hcompletes with
  | error d => exact .inr ⟨d.code, rfl⟩
  | success => exact .inl rfl

/-- The commands whose only causes are errors of the host. -/
def hostErrorCommands : List Instr :=
  [.wr16be, .wr16le, .wr32be, .wr32le, .wr64be, .wr64le, .rd16be, .rd16le, .rd32be, .rd32le, .rd64be, .rd64le,
   .revdw, .bitchk, .bitset, .bin2hex, .sha256, .sha256d, .sha256d2, .b58Enc, .b58cEnc]

/-- The commands whose only causes are in the data. -/
def dataErrorCommands : List Instr := [.hex2bin, .viDec, .b58Dec, .b58cDec]

variable {k : BitVec 3} {d : BitVec 8}

/-- A row of the table with one check. -/
theorem kind_of_ite_some {p : Prop} [Decidable p] {k' : BitVec 3} {d' : BitVec 8}
    {rest : Option (BitVec 3 × BitVec 8)} (h : (if p then some (k', d') else rest) = some (k, d)) :
    k = k' ∨ rest = some (k, d) := by
  split at h
  · cases h; exact .inl rfl
  · exact .inr h

theorem kind_of_causeOf_hostError (hi : i ∈ hostErrorCommands) (h : causeOf i s = some (k, d)) : k = 1 := by
  cases i with
  | revdw =>
    obtain hk | h := kind_of_ite_some h
    · exact hk
    · exact (kind_of_ite_some h).resolve_right nofun
  | revb | hash160 | viEnc | hex2bin | viDec | b58Dec | b58cDec => exact absurd hi (by decide)
  | _ => exact (kind_of_ite_some h).resolve_right nofun

theorem kind_of_checkedCause {x : Bytes} (h : checkedCause x = some (k, d)) : k = 2 := by
  rw [checkedCause] at h
  cases hdec : base58Decode x with
  | none => rw [hdec] at h; cases h; rfl
  | some y =>
    rw [hdec] at h
    obtain hk | h := kind_of_ite_some h
    · exact hk
    · exact (kind_of_ite_some h).resolve_right nofun

theorem kind_of_causeOf_dataError (hi : i ∈ dataErrorCommands) (h : causeOf i s = some (k, d)) : k = 2 := by
  cases i with
  | hex2bin =>
    obtain hk | h := kind_of_ite_some h
    · exact hk
    · exact (kind_of_ite_some h).resolve_right nofun
  | viDec =>
    rw [causeOf] at h
    cases hbuf : s.buf0 with
    | nil => rw [hbuf] at h; cases h; rfl
    | cons p rest => rw [hbuf] at h; exact (kind_of_ite_some h).resolve_right nofun
  | b58Dec => exact (kind_of_ite_some h).resolve_right nofun
  | b58cDec => exact (kind_of_ite_some h).elim id kind_of_checkedCause
  | _ => exact absurd hi (by decide)

end Sys2Proof.Machine
end

section
/-! PROOFS. What commands and steps change and keep (spec/00_scope.md R16; spec/10_state.md R22, R23, R30, R44;
spec/60_exceptions.md R287, R292, R304; spec/70_reset_and_hazards.md R321). -/

namespace Sys2Proof.Proofs

open Sys2Proof Sys2Proof.Machine Sys2Proof.Spec

/-- Settles O24: the parameters never change, no operation leaves a buffer longer than its capacity (no text decodes to
more bytes than it has characters), and STATUS is only written at an issue, a completion, HostClearSticky and reset. -/
theorem stepKeepsTheMachineInvariant : Obligations.StepKeepsTheMachineInvariant := by
  rintro s t ⟨hcfg, hmem, hlegal⟩ ht
  have hcap := le_bufCap_of_wf hcfg
  obtain ⟨-, hstep⟩ | ⟨-, hstep⟩ | ⟨op, -, hstep⟩ := step_cases_of_head s
  · have hkeeps := complete_turnKeeps (hstep.symm.trans ht)
    have hwf := hkeeps.memory_wf hcap hmem
    rw [← hkeeps.cfg_eq] at hwf
    exact ⟨hkeeps.cfg_eq ▸ hcfg, hwf, hkeeps.legal hlegal⟩
  · rw [hstep] at ht
    cases ht
    exact ⟨hcfg, resetBlock_wf (s.setSchedule _), rfl⟩
  · rw [hstep] at ht
    cases ht
    have hwf := hostStep_keeps_memory_wf (s := s.setSchedule s.schedule.tail) op hmem
    exact ⟨by rwa [hostStep_cfg], by rwa [hostStep_cfg], hostStep_keeps_status_legal op hlegal⟩

/-- Settles O17: the kind is that of the command's row of the cause table, and the rows of a class have one kind. -/
theorem failureClassesOfTheCommands : Obligations.FailureClassesOfTheCommands := by
  intro i s t h
  obtain hzero | ⟨d, hcause⟩ := kind_of_exec h
  · exact ⟨fun _ => hzero, fun _ => .inl hzero, fun _ => .inl hzero⟩
  · refine ⟨fun hi => ?_, fun hi => .inr (kind_of_causeOf_hostError hi hcause),
      fun hi => .inr (kind_of_causeOf_dataError hi hcause)⟩
    fin_cases hi <;> cases hcause

/-- Settles O18. -/
theorem commandsChangeOnlyTheirResultPlaces : Obligations.CommandsChangeOnlyTheirResultPlaces :=
  fun _ _ _ => exec_onlyResultsChanged

/-- Settles O19: both runs have one effect, since each rule computes it from the operands alone. -/
theorem resultsDependOnOperandsAlone : Obligations.ResultsDependOnOperandsAlone := by
  intro i s u s' u' hagree hs hu
  have hbuf : i ∈ buf0Writers → s.buf0 = u.buf0 := fun hi => hagree.buf0_eq (by rintro rfl; exact absurd hi (by decide))
  exact ⟨exec_onlyResultsChanged hs, (exec_sameEffect hagree).results_eq hs hu hbuf⟩

/-- Settles O20: the block's turn keeps ESTK and changes nothing while idle, and a host operation touches no result. -/
theorem onlyResetAndClearStickyClearTheStickyError : Obligations.OnlyResetAndClearStickyClearTheStickyError := by
  intro s t ht
  obtain ⟨hhead, hstep⟩ | ⟨hhead, hstep⟩ | ⟨op, hhead, hstep⟩ := step_cases_of_head s
  · rw [hstep] at ht
    refine ⟨fun hset hclear => ?_, fun hchanged => ?_, fun hreset => ?_⟩
    · rw [(complete_turnKeeps ht).estk hset] at hclear
      cases hclear
    · refine .inr ⟨?_, hhead⟩
      by_contra hidle
      rw [complete_of_idle (by simpa using hidle)] at ht
      cases ht
      simp at hchanged
    · obtain hnil | hcomplete := hhead
      · cases (congrArg List.head? hnil).symm.trans hreset
      · cases hcomplete.symm.trans hreset
  · rw [hstep] at ht
    cases ht
    exact ⟨fun _ _ => .inr hhead, fun _ => .inl hhead, fun _ => rfl⟩
  · rw [hstep] at ht
    cases ht
    refine ⟨fun hset hclear => ?_, fun hchanged => ?_, fun hreset => ?_⟩
    · by_cases hop : op = .clearSticky
      · exact .inl (hop ▸ hhead)
      · rw [hostStep_keeps_estk (s := s.setSchedule s.schedule.tail) hop hset] at hclear
        cases hclear
    · obtain hres0 | hres1 | holen := hchanged
      · exact (hres0 (hostStep_res0 op _)).elim
      · exact (hres1 (hostStep_res1 op _)).elim
      · exact (holen (congrArg List.length (hostStep_obuf op _))).elim
    · cases hhead.symm.trans hreset

/-- Settles O21: of the host operations only an issue writes these fields, and an idle block's turn writes nothing. -/
theorem errorCodesStayUntilTheNextIssue : Obligations.ErrorCodesStayUntilTheNextIssue := by
  intro s t ht hidle hreset hissue
  obtain ⟨-, hstep⟩ | ⟨hhead, -⟩ | ⟨op, hhead, hstep⟩ := step_cases_of_head s
  · rw [hstep, complete_of_idle (s := s.setSchedule s.schedule.tail) hidle] at ht
    cases ht
    exact ⟨rfl, rfl, rfl⟩
  · exact (hreset hhead).elim
  · rw [hstep] at ht
    cases ht
    exact hostStep_keeps_codes fun w hop => hissue w (hop ▸ hhead)

/-- Settles O22, by induction on the schedule: each step takes its head off, and the step after them is the block's
turn. -/
theorem everyCommandInFlightCompletes : Obligations.EveryCommandInFlightCompletes := by
  intro s
  obtain ⟨t, hrun, hnil⟩ := exists_run_of_schedule (s := s) rfl
  obtain ⟨u, hturn, hkeeps⟩ := exists_complete t
  have hstep : step t = .next u := (step_of_schedule_nil t hnil).trans hturn
  refine ⟨u, ?_, hkeeps.schedule_eq.trans hnil, hkeeps.idle⟩
  rw [hrun, run_succ t 0 u hstep, run_zero]

/-- Settles O25. -/
theorem parametersNeverChange : Obligations.ParametersNeverChange := by
  intro s t ht
  obtain ⟨u, hu, -, hcfg⟩ := exists_step s
  rw [hu] at ht
  cases ht
  exact hcfg

/-- Settles O26: the list is as it was but at the number of the block that stepped. -/
theorem instancesShareNothing : Obligations.InstancesShareNothing := by
  intro k xs
  cases hk : xs[k]? with
  | none => exact ⟨xs, stepInstance_of_none hk, rfl, fun _ _ => rfl, nofun⟩
  | some s =>
    obtain ⟨t, ht, -⟩ := exists_step s
    obtain ⟨hlt, -⟩ := List.getElem?_eq_some_iff.1 hk
    refine ⟨xs.set k t, stepInstance_of_step hk ht, List.length_set, fun j hj => ?_, ?_⟩
    · exact List.getElem?_set_ne hj.symm
    · rintro _ ⟨⟩
      exact ⟨t, ht, List.getElem?_set_self hlt⟩

end Sys2Proof.Proofs
end

section
/-! SUPPORT. How a command word reaches the block (spec/30_encoding.md R90, R100): the host's table word, and a
statement's writes of its operands before its issue. -/

namespace Sys2Proof.Machine

open Sys2Proof.Spec

variable (s : State)

/-- A table word that decodes is the command's own word. -/
theorem word_of_decodeTableWord {nbits w : Nat} {i : Instr} (h : decodeTableWord nbits w = some i) :
    BitVec.ofNat 8 (w % 2 ^ nbits) = encode i := by
  rw [← decodeWord_eq_ok_iff]
  unfold decodeTableWord decodeBytes at h
  cases hd : decodeWord (BitVec.ofNat 8 (w % 2 ^ nbits)) with
  | error e => simp [hd] at h
  | ok j => simpa [hd] using h

/-- The next step runs the word put in flight, and takes off the turn that was put there with it. -/
theorem step_withFetchWord {nbits w : Nat} {i : Instr} (h : BitVec.ofNat 8 (w % 2 ^ nbits) = encode i) :
    step (s.withFetchWord nbits w) = exec i (issued s (encode i)) := by
  rw [State.withFetchWord, h, step_of_schedule_cons _ rfl]
  exact complete_of_decode_ok (issued s (encode i)) rfl (decodeWord_encode i)

/-! ### The operands of a statement -/

/-- The state after the writes of some operands. -/
def writeArgs (operands : List (Nat × Word)) (s : State) : State := operands.foldl (fun t o => t.setArg o.1 o.2) s

variable (operands : List (Nat × Word))

theorem writeArgs_cons (o : Nat × Word) : writeArgs (o :: operands) s = writeArgs operands (s.setArg o.1 o.2) := rfl

theorem performAll_writeArg_of_idle (hb : s.status.busy = false) :
    performAll (operands.map fun o => .host (.writeArg o.1 o.2)) s = .next (writeArgs operands s) := by
  induction operands generalizing s with
  | nil => rfl
  | cons o operands ih =>
    rw [List.map_cons, performAll_host_cons, hostStep_writeArg_of_idle s _ _ hb, writeArgs_cons]
    exact ih _ (by rwa [State.setArg_status])

/-- The writes change nothing but ARG registers. -/
theorem writeArgs_frame : (writeArgs operands s).status = s.status ∧ (writeArgs operands s).cfg = s.cfg ∧
    (writeArgs operands s).mem = s.mem ∧ (writeArgs operands s).res0 = s.res0 ∧ (writeArgs operands s).res1 = s.res1 ∧
    (writeArgs operands s).schedule = s.schedule ∧ (writeArgs operands s).hostReads = s.hostReads := by
  induction operands generalizing s with
  | nil => exact ⟨rfl, rfl, rfl, rfl, rfl, rfl, rfl⟩
  | cons o operands ih => simpa [writeArgs_cons] using ih (s.setArg o.1 o.2)

theorem arg_writeArgs_of_not_mem {k : Nat} (hk : k ∉ operands.map Prod.fst) :
    (writeArgs operands s).arg k = s.arg k := by
  induction operands generalizing s with
  | nil => rfl
  | cons o operands ih =>
    rw [List.map_cons, List.mem_cons, not_or] at hk
    rw [writeArgs_cons, ih _ hk.2, State.arg_setArg_other s _ _ _ hk.1]

/-- Writes to different registers leave each operand in its own. -/
theorem arg_writeArgs_of_mem (hnodup : (operands.map Prod.fst).Nodup) (hle : ∀ k ∈ operands.map Prod.fst, k ≤ 4) :
    ∀ o ∈ operands, (writeArgs operands s).arg o.1 = o.2 := by
  induction operands generalizing s with
  | nil => nofun
  | cons o operands ih =>
    rw [List.map_cons, List.nodup_cons] at hnodup
    rw [List.map_cons, List.forall_mem_cons] at hle
    refine List.forall_mem_cons.2 ⟨?_, ih _ hnodup.2 hle.2⟩
    rw [writeArgs_cons, arg_writeArgs_of_not_mem _ _ hnodup.1, State.arg_setArg_same s _ _ hle.1]

/-- Each command names different registers, ARG0 to ARG4 (R95). -/
theorem argRegs_nodup_le (i : Instr) : i.argRegs.Nodup ∧ ∀ k ∈ i.argRegs, k ≤ 4 := by cases i <;> decide

/-- A statement on an idle block is its command at the state its writes and its issue leave. -/
theorem performAll_events_of_idle (st : Stmt) (hb : s.status.busy = false) :
    performAll st.events s = exec st.instr (issued (writeArgs st.operands s) (encode st.instr)) := by
  obtain ⟨hstatus, -⟩ := writeArgs_frame s st.operands
  rw [Stmt.events, performAll_append s _ _ _ (performAll_writeArg_of_idle s st.operands hb)]
  exact runCommand_of_idle _ st.instr (by rw [hstatus, hb])

/-! ### Reading a register -/

/-- A buffer's length reads as itself where 32 bits hold it. -/
theorem toNat_setWidth_ofNat_of_lt {n : Nat} (h : n < 2 ^ 32) : ((BitVec.ofNat 32 n).setWidth 64).toNat = n := by
  rw [BitVec.toNat_setWidth, BitVec.toNat_ofNat, Nat.mod_eq_of_lt h, Nat.mod_eq_of_lt (h.trans (by decide))]

/-- The bits of STATUS, the lowest field first (spec/10_state.md R25). -/
theorem getLsbD_word (t : Status) (k : Nat) : t.word.getLsbD k =
    if k < 1 then (BitVec.ofBool t.busy).getLsbD k
    else if k < 2 then (BitVec.ofBool t.done).getLsbD (k - 1)
    else if k < 3 then (BitVec.ofBool t.estk).getLsbD (k - 2)
    else if k < 8 then false
    else if k < 11 then t.kind.getLsbD (k - 8)
    else if k < 16 then false
    else t.detail.getLsbD (k - 16) := by
  rw [Status.word, BitVec.getLsbD_append, BitVec.getLsbD_append, BitVec.getLsbD_append, BitVec.getLsbD_append,
    BitVec.getLsbD_append, BitVec.getLsbD_append, BitVec.getLsbD_append]
  simp only [Nat.sub_sub, BitVec.getLsbD_zero]
  refine if_congr Iff.rfl rfl (if_congr (by omega) rfl (if_congr (by omega) rfl (if_congr (by omega) rfl
    (if_congr (by omega) rfl (if_congr (by omega) rfl ?_)))))
  split
  case isTrue => rfl
  case isFalse hout => exact (BitVec.getLsbD_of_ge _ _ (by omega)).symm

/-- A field of STATUS as the host reads it, by the bits of the field. -/
theorem extractLsb'_word {t : Status} {start len : Nat} {x : BitVec len} (hfit : start + len ≤ 64)
    (h : ∀ k < len, t.word.getLsbD (start + k) = x.getLsbD k) : (t.word.setWidth 64).extractLsb' start len = x := by
  apply BitVec.eq_of_getLsbD_eq
  intro k hk
  rw [BitVec.getLsbD_extractLsb', BitVec.getLsbD_setWidth, h k hk]
  simp [hk, show start + k < 64 by omega]

theorem statusBits_word (t : Status) : statusBits t (t.word.setWidth 64) := by
  have hbit : ∀ k < 64, (t.word.setWidth 64).getLsbD k = t.word.getLsbD k := fun k hk => by
    rw [BitVec.getLsbD_setWidth, decide_eq_true hk, Bool.true_and]
  refine ⟨?_, ?_, ?_, extractLsb'_word (by decide) ?_, extractLsb'_word (by decide) ?_,
    extractLsb'_word (by decide) ?_, extractLsb'_word (by decide) ?_, extractLsb'_word (by decide) ?_⟩
  · rw [hbit 0 (by decide), getLsbD_word]
    simp
  · rw [hbit 1 (by decide), getLsbD_word]
    simp
  · rw [hbit 2 (by decide), getLsbD_word]
    simp
  all_goals
    intro k hk
    rw [getLsbD_word]
    simp (disch := omega) only [if_neg, if_pos, Nat.add_sub_cancel_left, BitVec.ofNat_eq_ofNat, BitVec.getLsbD_zero]
  exact BitVec.getLsbD_of_ge _ _ (by omega)

theorem readRegister_of_unused {r : Nat} (h : 12 ≤ r ∧ r ≤ 15 ∨ 19 ≤ r) : readRegister s r = .word 0 := by
  unfold readRegister
  split <;> first | rfl | omega

end Sys2Proof.Machine
end

section
/-! PROOFS. The statements about the decoder, the step and the host port (spec/10_state.md R20, R44, R45, R48;
spec/30_encoding.md R92, R100). -/

namespace Sys2Proof.Proofs

open Sys2Proof Sys2Proof.Machine Sys2Proof.Spec

/-- Settles O7: the writes leave each operand in its register and nothing else changed, and the issue is accepted. -/
theorem statementRunsItsCommandOnItsOperands : Obligations.StatementRunsItsCommandOnItsOperands := by
  intro st s hwf hidle
  have hregs : st.operands.map Prod.fst = st.instr.argRegs := of_decide_eq_true hwf
  obtain ⟨hnodup, hle⟩ := argRegs_nodup_le st.instr
  rw [← hregs] at hnodup hle ⊢
  obtain ⟨hstatus, hframe⟩ := writeArgs_frame s st.operands
  refine ⟨_, performAll_events_of_idle s st hidle, rfl, arg_writeArgs_of_mem s st.operands hnodup hle,
    fun k hk => arg_writeArgs_of_not_mem s st.operands hk, ?_, hframe⟩
  rw [issued, hstatus]
  rfl

/-- Settles O11. -/
theorem hostReadReturnsTheRegisterAndChangesNothing : Obligations.HostReadReturnsTheRegisterAndChangesNothing := by
  intro s r
  refine ⟨readRegister s r, rfl, ?_, ?_, ?_, ?_, ?_, ?_, ?_, ?_, ?_, ?_, ?_, ?_, ?_⟩
  · rintro rfl; rfl
  · rintro rfl; exact ⟨_, rfl, statusBits_word s.status⟩
  · intro hlo hhi; interval_cases r <;> rfl
  · rintro rfl; rfl
  · rintro rfl; rfl
  · rintro rfl; exact ⟨_, rfl, toNat_setWidth_ofNat_of_lt⟩
  · rintro rfl; exact ⟨_, rfl, toNat_setWidth_ofNat_of_lt⟩
  · rintro rfl; exact ⟨_, rfl, toNat_setWidth_ofNat_of_lt⟩
  · rintro rfl; rfl
  · rintro rfl; rfl
  · rintro rfl; rfl
  · exact fun hlo hhi => readRegister_of_unused s (.inl ⟨hlo, hhi⟩)
  · exact fun hlo => readRegister_of_unused s (.inr hlo)

/-- Settles O2. -/
theorem decodeInvertsEncode : Obligations.DecodeInvertsEncode := fun i w => decodeWord_eq_ok_iff w i

/-- Settles O4: either turn of the block is `complete`, which runs the command in flight. -/
theorem stepRunsTheCommandInFlight : Obligations.StepRunsTheCommandInFlight := by
  intro s i hbusy hdecode
  refine ⟨fun hnil => ?_, fun rest hturn => ?_⟩
  · rw [step_of_schedule_nil s hnil, complete_of_decode_ok s hbusy hdecode]
  · rw [step_of_schedule_cons s hturn]
    exact complete_of_decode_ok (s.setSchedule rest) hbusy hdecode

/-- Settles O5: a table word that decodes is the command's own word. -/
theorem fetchWordIsRunByTheNextStep : Obligations.FetchWordIsRunByTheNextStep :=
  fun s _ _ _ hdecode => step_withFetchWord s (word_of_decodeTableWord hdecode)

/-- Settles O6: a step is the scheduled event, or the block's turn, which leaves an idle block as it is. -/
theorem stepPerformsTheScheduledEvent : Obligations.StepPerformsTheScheduledEvent := by
  intro s
  refine ⟨fun _ _ h => step_of_schedule_cons s h, fun _ h => step_of_schedule_cons s h,
    fun _ h => step_of_schedule_cons s h, step_of_schedule_nil s, fun rest h hidle => ?_, fun h hidle => ?_⟩
  · rw [step_of_schedule_cons s h]
    exact complete_of_idle (s := s.setSchedule rest) hidle
  · rw [step_of_schedule_nil s h, complete_of_idle hidle]

/-- Settles O13. -/
theorem resetPutsEveryRegisterAtItsResetValue : Obligations.ResetPutsEveryRegisterAtItsResetValue :=
  fun _ => ⟨rfl, rfl⟩

/-- Settles O23. -/
theorem resetMeetsTheMachineInvariant : Obligations.ResetMeetsTheMachineInvariant :=
  ⟨by decide, reset_memory_wf, by decide⟩

end Sys2Proof.Proofs
end

section
/-! SUPPORT. The access commands as inverses of each other (spec/40_byteorder.md R134), row by row. -/

namespace Sys2Proof.Spec

open Sys2Proof.Machine

namespace AccessRow

variable (r : AccessRow)

/-- Reading back what was written: the low `8n` bits. -/
theorem decoder_encoder (n v : Nat) : r.decoder (r.encoder n v) = v % 2 ^ (8 * n) := by
  rw [Nat.pow_mul]
  unfold decoder encoder
  split
  · exact fromBE_beBytes n v
  · exact fromLE_leBytes n v

variable {r} {r' : AccessRow}

theorem decoder_eq_of_big_eq (h : r.big = r'.big) : r.decoder = r'.decoder := by rw [decoder, decoder, h]

end AccessRow

/-- A pair of R134 is a WR row and an RD row of one width and one order. -/
theorem exists_rows_of_mem_pairRows : ∀ p ∈ pairRows, ∃ r ∈ wrRows, ∃ r' ∈ rdRows,
    r.instr = p.1 ∧ r'.instr = p.2.1 ∧ r.width = p.2.2 ∧ r'.width = p.2.2 ∧ r'.big = r.big := by
  decide

variable {p : Instr × Instr × Nat} (s : State)

/-- The two commands of a pair are the access operations of one row's order and width. -/
theorem exec_of_mem_pairRows (hp : p ∈ pairRows) : ∃ r : AccessRow, p.2.2 ≤ 8 ∧
    (∀ s, exec p.1 s = writeInteger p.2.2 r.encoder s) ∧ ∀ s, exec p.2.1 s = readInteger p.2.2 r.decoder s := by
  obtain ⟨r, hr, r', hr', hwr, hrd, hwidth, hwidth', hbig⟩ := exists_rows_of_mem_pairRows p hp
  refine ⟨r, hwidth' ▸ width_le_of_mem_rdRows hr', fun s => ?_, fun s => ?_⟩
  · rw [← hwr, ← hwidth, exec_of_mem_wrRows s hr]
  · rw [← hrd, ← hwidth', exec_of_mem_rdRows s hr', AccessRow.decoder_eq_of_big_eq hbig]

/-- The two commands of one width are the same write in the two orders. -/
theorem exec_of_mem_orderRows (hp : p ∈ orderRows) :
    exec p.1 s = writeInteger p.2.2 beBytes s ∧ exec p.2.1 s = writeInteger p.2.2 leBytes s := by
  fin_cases hp <;> exact ⟨rfl, rfl⟩

/-! ### Access after access -/

section

variable {w : Nat} (r : AccessRow) (hin : s.arg1.toNat + w ≤ s.len0)

include hin

/-- What a WR command stored, an RD command of its order and width loads (R134 (a)). -/
theorem readInteger_after_writeInteger (hw : w ≤ 8) :
    ∃ t u, writeInteger w r.encoder s = .next t ∧ readInteger w r.decoder t = .next u ∧
      u.res0.toNat = s.arg0.toNat % 2 ^ (8 * w) := by
  set src := r.encoder w (s.arg0.toNat % 2 ^ (8 * w)) with hsrc
  have hlen : src.length = w := r.length_encoder _ _
  have hfit : s.arg1.toNat + src.length ≤ s.buf0.length := by rwa [hlen]
  have hin' : s.arg1.toNat + w ≤ (memWrite s.buf0 s.arg1.toNat src).length := by rwa [length_memWrite _ _ _ hfit]
  have hread : memRead (memWrite s.buf0 s.arg1.toNat src) s.arg1.toNat w = src := by
    conv_lhs => rw [← hlen]
    exact memRead_memWrite _ _ _ hfit
  refine ⟨_, _, writeInteger_of_in_bounds s w r.encoder hin, readInteger_of_in_bounds _ w r.decoder hin', ?_⟩
  change (BitVec.ofNat 64 (r.decoder (memRead (memWrite s.buf0 s.arg1.toNat src) s.arg1.toNat w))).toNat = _
  rw [hread, r.toNat_ofNat_decoder (hlen.trans_le hw), hsrc, r.decoder_encoder, Nat.mod_mod]

/-- Storing what an RD command loaded from the same place changes nothing (R134 (b)). -/
theorem writeInteger_after_readInteger (hw : w ≤ 8) :
    ∃ t u, readInteger w r.decoder s = .next t ∧ writeInteger w r.encoder { t with arg0 := t.res0 } = .next u ∧
      u.buf0 = s.buf0 := by
  set src := memRead s.buf0 s.arg1.toNat w with hsrc
  have hlen : src.length = w := length_memRead _ _ _ hin
  have hstored : r.encoder w ((BitVec.ofNat 64 (r.decoder src)).toNat % 2 ^ (8 * w)) = src := by
    rw [r.encoder_mod, r.toNat_ofNat_decoder (hlen.trans_le hw), ← hlen, r.encoder_decoder]
  refine ⟨_, _, readInteger_of_in_bounds s w r.decoder hin, writeInteger_of_in_bounds _ w r.encoder hin, ?_⟩
  change memWrite s.buf0 s.arg1.toNat (r.encoder w ((BitVec.ofNat 64 (r.decoder src)).toNat % 2 ^ (8 * w))) = s.buf0
  rw [hstored]
  exact memWrite_memRead _ _ _ hin

/-- In bounds, a WR command of either order leaves its own bytes where it stores. -/
theorem exists_writeInteger_stored {enc : Nat → Nat → Bytes} (henc : ∀ v, (enc w v).length = w) :
    ∃ t, writeInteger w enc s = .next t ∧
      (t.buf0.drop s.arg1.toNat).take w = enc w (s.arg0.toNat % 2 ^ (8 * w)) := by
  refine ⟨_, writeInteger_of_in_bounds s w enc hin, ?_⟩
  have hstored := memRead_memWrite s.buf0 s.arg1.toNat (enc w (s.arg0.toNat % 2 ^ (8 * w))) (by rwa [henc])
  rwa [henc] at hstored

end

end Sys2Proof.Spec
end

section
/-! SUPPORT. Setting a bit and reading bits (spec/41_bytearray.md R159, R160), and the two ranges of SHA256D2
(spec/42_hash.md R188). -/

namespace Sys2Proof.Machine

open Sys2Proof.Spec

/-! ### One bit set, any bit read -/

variable {b : Bytes} {i j : Nat}

/-- The buffer with one bit set has every other byte as it was. -/
theorem byteAt_memWrite_byteWithBit (hi : i / 8 < b.length) :
    byteAt (memWrite b (i / 8) [byteWithBit b i]) (j / 8) =
      if j / 8 = i / 8 then byteWithBit b i else byteAt b (j / 8) := by
  have hfit : i / 8 + [byteWithBit b i].length ≤ b.length := hi
  split
  case isTrue heq =>
    rw [heq]
    exact byteAt_of_getElem?_eq_some (getElem?_memWrite_inside b (i / 8) _ 0 hfit Nat.one_pos)
  case isFalse hne =>
    rw [byteAt, byteAt, List.getD_eq_getElem?_getD, List.getD_eq_getElem?_getD,
      getElem?_memWrite_outside b (i / 8) _ (j / 8) hfit (Nat.lt_or_gt_of_ne hne)]

/-- After a bit is set it reads 1, and every other bit reads as before. -/
theorem bitOf_memWrite_byteWithBit (hi : i / 8 < b.length) :
    bitOf (memWrite b (i / 8) [byteWithBit b i]) j = if j = i then 1 else bitOf b j := by
  rw [bitOf_eq_toNat_getLsbD, bitOf_eq_toNat_getLsbD, byteAt_memWrite_byteWithBit hi]
  by_cases hbyte : j / 8 = i / 8
  · rw [if_pos hbyte, getLsbD_byteWithBit b i (Nat.mod_lt j (by decide)), hbyte]
    by_cases hbit : j % 8 = i % 8
    · have heq : j = i := by omega
      simp [heq]
    · have hne : j ≠ i := fun h => hbit (h ▸ rfl)
      rw [beq_false_of_ne hbit, Bool.or_false, if_neg hne]
  · have hne : j ≠ i := fun h => hbyte (h ▸ rfl)
    rw [if_neg hbyte, if_neg hne]

/-! ### SHA256D2 -/

variable (s : State)

theorem exec_sha256d2_of_out_of_bounds
    (h : s.len0 < s.arg1.toNat + s.arg2.toNat ∨ s.len1 < s.arg3.toNat + s.arg4.toNat) :
    exec .sha256d2 s = .next (failed s 1 0x01) := by
  have hcause : causeOf .sha256d2 s = some (1, 0x01) := if_pos h
  exact (hcause ▸ exec_completes s .sha256d2).eq_failed

theorem exec_sha256d2_of_in_bounds (h0 : s.arg1.toNat + s.arg2.toNat ≤ s.len0)
    (h1 : s.arg3.toNat + s.arg4.toNat ≤ s.len1) :
    exec .sha256d2 s = .next (done (withObuf s (doubleSha256
      (memRead s.buf0 s.arg1.toNat s.arg2.toNat ++ memRead s.buf1 s.arg3.toNat s.arg4.toNat)))) :=
  (if_pos ((inBounds_eq_true _ _ _).2 h0)).trans (if_pos ((inBounds_eq_true _ _ _).2 h1))

/-- SHA256D over the whole of BUF0. -/
theorem exec_sha256d_of_whole {u : State} (hoff : u.arg1 = 0) (hlen : u.arg2.toNat = u.len0) :
    exec .sha256d u = .next (done (withObuf u (doubleSha256 u.buf0))) := by
  have hoff' : u.arg1.toNat = 0 := congrArg BitVec.toNat hoff
  have hall : memRead u.buf0 u.arg1.toNat u.arg2.toNat = u.buf0 := by
    rw [hoff', hlen, memRead, List.drop_zero, List.take_length]
  rw [exec_sha256d_of_in_bounds u (by omega), hall]

end Sys2Proof.Machine
end

section
/-! PROOFS. Laws of the BYTEORDER, BYTEARRAY and HASH units (spec/40_byteorder.md R134; spec/41_bytearray.md R160;
spec/42_hash.md R188). -/

namespace Sys2Proof.Proofs

open Sys2Proof Sys2Proof.Machine Sys2Proof.Spec

/-- Settles O29: the encoder and the decoder of an order are inverse on what fits the width, and a buffer write is
inverse to a buffer read. -/
theorem readsAndWritesAreInverse : Obligations.ReadsAndWritesAreInverse := by
  refine ⟨fun p hp s hin => ?_, fun p hp s hin => ?_⟩
  · obtain ⟨r, hwidth, hwr, hrd⟩ := exec_of_mem_pairRows hp
    simp only [hwr, hrd]
    exact ⟨readInteger_after_writeInteger s r hin hwidth, writeInteger_after_readInteger s r hin hwidth⟩
  · obtain ⟨hbe, hle⟩ := exec_of_mem_orderRows s hp
    rw [hbe, hle]
    obtain ⟨t, ht, hstored⟩ := exists_writeInteger_stored s hin (length_beBytes p.2.2)
    obtain ⟨t', ht', hstored'⟩ := exists_writeInteger_stored s hin (length_leBytes p.2.2)
    refine ⟨t, t', _, ht, ht', exec_revb _, ?_⟩
    rw [hstored, hstored', beBytes_eq_reverse]
    exact List.reverse_reverse _

/-- Settles O35. -/
theorem bitchkAfterBitset : Obligations.BitchkAfterBitset := by
  intro s j hi hj
  have hlen : (memWrite s.buf0 (s.arg1.toNat / 8) [byteWithBit s.buf0 s.arg1.toNat]).length = s.len0 :=
    length_memWrite _ _ _ hi
  have hj' := hj.trans_eq hlen.symm
  refine ⟨_, _, _, exec_bitset_of_in_bounds s hi, exec_bitchk_of_in_bounds _ hj', exec_bitchk_of_in_bounds _ hj, ?_⟩
  change BitVec.ofNat 64 (bitOf (memWrite s.buf0 _ _) j.toNat) = _
  rw [bitOf_memWrite_byteWithBit hi]
  by_cases heq : j = s.arg1
  · rw [if_pos heq, if_pos (congrArg BitVec.toNat heq)]
    rfl
  · rw [if_neg heq, if_neg (mt BitVec.eq_of_toNat_eq heq)]
    rfl

/-- Settles O40: both commands hash one sequence, which one buffer holds or two ranges put together. -/
theorem sha256d2HashesTheConcatenation : Obligations.Sha256d2HashesTheConcatenation := by
  intro s
  refine ⟨decodeWord_encode .sha256d2, exec_sha256d2_of_out_of_bounds s, fun h0 h1 => ?_⟩
  set m0 := memRead s.buf0 s.arg1.toNat s.arg2.toNat
  set m1 := memRead s.buf1 s.arg3.toNat s.arg4.toNat
  have hlen0 : m0.length = s.arg2.toNat := length_memRead _ _ _ h0
  have hlen1 : m1.length = s.arg4.toNat := length_memRead _ _ _ h1
  refine ⟨m0 ++ m1, ?_, fun j hj => ?_, fun j hj => ?_, exec_sha256d2_of_in_bounds s h0 h1, length_sha256Digest _, ?_⟩
  · rw [List.length_append, hlen0, hlen1]
  · rw [List.getElem?_append_left (hj.trans_eq hlen0.symm)]
    exact getElem?_memRead _ _ _ j hj
  · rw [List.getElem?_append_right (hlen0.trans_le (Nat.le_add_right _ j)), hlen0, Nat.add_sub_cancel_left]
    exact getElem?_memRead _ _ _ j hj
  · intro u hbuf hoff hlen
    refine ⟨_, exec_sha256d_of_whole hoff (hlen.trans (congrArg List.length hbuf.symm)), rfl, ?_⟩
    exact congrArg doubleSha256 hbuf

end Sys2Proof.Proofs
end

section
/-! SUPPORT. The two digests by index (spec/42_hash.md R174 to R176, R184, R185): folds as recurrences over an index, the
padding, the message schedule and the digest's bytes. -/

namespace Sys2Proof.Machine

open Sys2Proof.Spec

/-! ### Folds and lists by index -/

/-- A fold over a list is the last of any sequence that starts where it does and goes on by the list's elements. -/
theorem foldl_eq_of_recurrence {σ α : Type} {f : σ → α → σ} {l : List α} {V : Nat → σ}
    (h : ∀ t a, l[t]? = some a → V (t + 1) = f (V t) a) : l.foldl f (V 0) = V l.length := by
  induction l generalizing V with
  | nil => rfl
  | cons a l ih =>
    rw [List.foldl_cons, ← h 0 a rfl]
    exact ih (V := fun t => V (t + 1)) fun t b hb => h (t + 1) b hb

/-- The same over the numbers below `n`. -/
theorem foldl_range_eq_of_recurrence {σ : Type} {f : σ → Nat → σ} {n : Nat} {V : Nat → σ}
    (h : ∀ t < n, V (t + 1) = f (V t) t) : (List.range n).foldl f (V 0) = V n := by
  have hfold := foldl_eq_of_recurrence (f := f) (l := List.range n) (V := V) fun t a ha => by
    obtain ⟨hlt, rfl⟩ := List.getElem?_eq_some_iff.1 ha
    rw [List.length_range] at hlt
    rw [List.getElem_range, h t hlt]
  rwa [List.length_range] at hfold

/-- Element `k` of piece `j` of a list put together from pieces of one length. -/
theorem getElem?_flatMap_of_length {α : Type} {g : α → Bytes} {n : Nat} (hn : ∀ x, (g x).length = n) {l : List α}
    {j k : Nat} {x : α} (hj : l[j]? = some x) (hk : k < n) : (l.flatMap g)[n * j + k]? = (g x)[k]? := by
  induction l generalizing j with
  | nil => cases hj
  | cons y l ih =>
    rw [List.flatMap_cons]
    cases j with
    | zero =>
      cases hj
      rw [Nat.mul_zero, Nat.zero_add, List.getElem?_append_left (hk.trans_eq (hn _).symm)]
    | succ j =>
      rw [Nat.mul_succ, List.getElem?_append_right (by rw [hn]; omega), hn]
      rw [show n * j + n + k - n = n * j + k by omega]
      exact ih hj

/-- A list of which every element is known by its index. -/
theorem eq_map_range_of_getElem? {α : Type} {l : List α} {n : Nat} {f : Nat → α} (hlen : l.length = n)
    (h : ∀ i < n, l[i]? = some (f i)) : l = (List.range n).map f := by
  apply List.ext_getElem?
  intro i
  by_cases hi : i < n
  · rw [h i hi]
    simp [hi]
  · rw [List.getElem?_eq_none (by omega), List.getElem?_eq_none (by simpa using hi)]

/-! ### The padding (R174, R184) -/

/-- The zero bytes are the fewest that make whole blocks. -/
theorem padZeros_least (len : Nat) :
    (len + 1 + padZeros len + 8) % 64 = 0 ∧ ∀ z < padZeros len, (len + 1 + z + 8) % 64 ≠ 0 := by
  unfold padZeros
  constructor
  · omega
  · intro z hz
    omega

/-- The big-endian bytes of a register are its 8-bit fields, the highest first (spec/00_scope.md R12). -/
theorem beBytes_toNat {w : Nat} (n : Nat) (v : BitVec w) :
    beBytes n v.toNat = (List.range n).map fun i => v.extractLsb' (8 * (n - 1 - i)) 8 := rfl

/-! ### Chains of blocks (R176, R185) -/

/-- A chain of blocks over an index ends at the fold over the blocks. -/
theorem foldl_blocks64_eq {σ : Type} {f : σ → Bytes → σ} {p : Bytes} {H : Nat → σ}
    (h : ∀ i, H (i + 1) = f (H i) ((p.drop (64 * i)).take 64)) : (blocks64 p).foldl f (H 0) = H (p.length / 64) := by
  have hfold := foldl_eq_of_recurrence (f := f) (l := blocks64 p) (V := H) fun i b hb => by
    obtain ⟨hlt, -⟩ := List.getElem?_eq_some_iff.1 hb
    rw [blocks64, length_pieces] at hlt
    rw [blocks64, getElem?_pieces 64 _ p i hlt] at hb
    cases hb
    exact h i
  rwa [blocks64, length_pieces] at hfold

/-- Byte `k` of word `j` of a SHA-256 digest's output (R176). -/
theorem getElem?_shaOutput {r : Sha256Regs} {j k : Nat} {x : W32}
    (hj : [r.a, r.b, r.c, r.d, r.e, r.f, r.g, r.h][j]? = some x) (hk : k < 4) :
    (shaOutput r)[4 * j + k]? = some (x.extractLsb' (8 * (3 - k)) 8) := by
  rw [shaOutput, getElem?_flatMap_of_length (n := 4) (fun _ => length_beBytes 4 _) hj hk]
  exact getElem?_beBytes 4 x.toNat k hk

/-- Byte `k` of word `j` of a RIPEMD-160 digest's output (R185). -/
theorem getElem?_rmdOutput {r : RmdRegs} {j k : Nat} {x : W32} (hj : [r.a, r.b, r.c, r.d, r.e][j]? = some x)
    (hk : k < 4) : (rmdOutput r)[4 * j + k]? = some (x.extractLsb' (8 * k) 8) := by
  rw [rmdOutput, getElem?_flatMap_of_length (n := 4) (fun _ => length_leBytes 4 _) hj hk]
  exact getElem?_leBytes 4 x.toNat k hk

/-! ### The words of a block (R175, R185) -/

variable {b : Bytes}

theorem shaBlockWords_eq {W : Nat → W32} (hW : ∀ t < 16, (W t).toNat = bigEndian ((b.drop (4 * t)).take 4)) :
    shaBlockWords b = (List.range 16).map W := by
  refine eq_map_range_of_getElem? (by rw [shaBlockWords, List.length_map, length_pieces]) fun t ht => ?_
  rw [shaBlockWords, List.getElem?_map, getElem?_pieces 4 16 b t ht, Option.map_some, ← bigEndian_eq_fromBE, ← hW t ht,
    BitVec.ofNat_toNat, BitVec.setWidth_eq]

theorem rmdBlockWords_eq {X : Nat → W32}
    (hX : ∀ t < 16, (X t).toNat = bigEndian ((b.drop (4 * t)).take 4).reverse) :
    rmdBlockWords b = (List.range 16).map X := by
  refine eq_map_range_of_getElem? (by rw [rmdBlockWords, List.length_map, length_pieces]) fun t ht => ?_
  have hword : fromLE ((b.drop (4 * t)).take 4) = (X t).toNat := by
    rw [hX t ht, bigEndian_eq_fromBE, fromBE_eq_fromLE_reverse, List.reverse_reverse]
  rw [rmdBlockWords, List.getElem?_map, getElem?_pieces 4 16 b t ht, Option.map_some, hword,
    BitVec.ofNat_toNat, BitVec.setWidth_eq]

/-! ### The message schedule (R175) -/

/-- The first `n` words of a schedule, newest first, as the model holds them. -/
def newestFirst (W : Nat → W32) (n : Nat) : List W32 := ((List.range n).map W).reverse

variable {W : Nat → W32} {n : Nat}

theorem newestFirst_succ : newestFirst W (n + 1) = W n :: newestFirst W n := by
  rw [newestFirst, List.range_succ, List.map_append, List.reverse_append]
  rfl

/-- The word `j + 1` places back. -/
theorem getD_newestFirst {j : Nat} (hj : j < n) : (newestFirst W n).getD j 0 = W (n - 1 - j) := by
  have hlen : j < ((List.range n).map W).length := by rwa [List.length_map, List.length_range]
  rw [newestFirst, List.getD_eq_getElem?_getD, List.getElem?_reverse hlen, List.length_map, List.length_range,
    List.getElem?_map, List.getElem?_range (by omega)]
  rfl

/-- The schedule goes on by the recurrence. -/
theorem shaNextW_newestFirst (hn : 16 ≤ n)
    (hW : W n = shaSmallS1 (W (n - 2)) + W (n - 7) + shaSmallS0 (W (n - 15)) + W (n - 16)) :
    shaNextW (newestFirst W n) = W n := by
  rw [shaNextW, getD_newestFirst (by omega), getD_newestFirst (by omega), getD_newestFirst (by omega),
    getD_newestFirst (by omega), hW]
  simp only [Nat.sub_sub, Nat.reduceAdd]

theorem shaExtend_newestFirst {k : Nat} (hn : 16 ≤ n) (hW : ∀ t, 16 ≤ t → t < n + k →
    W t = shaSmallS1 (W (t - 2)) + W (t - 7) + shaSmallS0 (W (t - 15)) + W (t - 16)) :
    shaExtend k (newestFirst W n) = newestFirst W (n + k) := by
  induction k generalizing n with
  | zero => rfl
  | succ k ih =>
    rw [shaExtend, shaNextW_newestFirst hn (hW n hn (by omega)), ← newestFirst_succ,
      ih (n := n + 1) (by omega) fun t hlo hhi => hW t hlo (by omega), Nat.add_right_comm, Nat.add_assoc]

/-- The model's schedule of a block is the one the recurrence gives. -/
theorem shaSchedule_eq {h : Sha256Regs} {V : Nat → Sha256Regs} (htrace : Sha256Trace h b W V) :
    shaSchedule b = (List.range 64).map W := by
  rw [shaSchedule, shaBlockWords_eq htrace.first]
  change (shaExtend 48 (newestFirst W 16)).reverse = _
  rw [shaExtend_newestFirst le_rfl htrace.later, newestFirst, List.reverse_reverse]

/-- The rounds of a block end at the working variables after round 64. -/
theorem shaRounds_eq {h : Sha256Regs} {V : Nat → Sha256Regs} (htrace : Sha256Trace h b W V) :
    shaRounds h b = V 64 := by
  have hlen : (shaK.zip ((List.range 64).map W)).length = 64 := by
    rw [List.length_zip, List.length_map, List.length_range]
    rfl
  rw [shaRounds, shaSchedule_eq htrace, ← htrace.start]
  refine (foldl_eq_of_recurrence fun t kw hkw => ?_).trans (congrArg V hlen)
  obtain ⟨hk, hw⟩ := List.getElem?_zip_eq_some.1 hkw
  obtain ⟨ht, hWt⟩ := List.getElem?_eq_some_iff.1 hw
  rw [List.length_map, List.length_range] at ht
  rw [List.getElem_map, List.getElem_range] at hWt
  have hKt : shaK.getD t 0 = kw.1 := by rw [List.getD_eq_getElem?_getD, hk]; rfl
  rw [htrace.round t ht _ _ rfl rfl, hKt, hWt]
  rfl

/-! ### The two lines of RIPEMD-160 (R185) -/

theorem getD_map_range {X : Nat → W32} {i : Nat} (hi : i < 16) : ((List.range 16).map X).getD i 0 = X i := by
  rw [List.getD_eq_getElem?_getD, List.getElem?_map, List.getElem?_range hi]
  rfl

variable {h : RmdRegs} {X : Nat → W32} {L R : Nat → RmdRegs}

theorem rmdLeft_eq (htrace : RmdTrace h L (fun j => j) (fun j => X (rmdRL.getD j 0)) (fun j => rmdKL.getD (j / 16) 0)
    (fun j => rmdSL.getD j 0)) : rmdLeft h ((List.range 16).map X) = L 80 := by
  rw [rmdLeft, ← htrace.start]
  refine foldl_range_eq_of_recurrence fun j hj => ?_
  have hword : rmdRL.getD j 0 < 16 := (by decide : ∀ j < 80, rmdRL.getD j 0 < 16) j hj
  rw [htrace.step j hj, getD_map_range hword]
  rfl

theorem rmdRight_eq (htrace : RmdTrace h R (fun j => 79 - j) (fun j => X (rmdRR.getD j 0))
    (fun j => rmdKR.getD (j / 16) 0) (fun j => rmdSR.getD j 0)) : rmdRight h ((List.range 16).map X) = R 80 := by
  rw [rmdRight, ← htrace.start]
  refine foldl_range_eq_of_recurrence fun j hj => ?_
  have hword : rmdRR.getD j 0 < 16 := (by decide : ∀ j < 80, rmdRR.getD j 0 < 16) j hj
  rw [htrace.step j hj, getD_map_range hword]
  rfl

end Sys2Proof.Machine
end

section
/-! PROOFS. The digest algorithms against their recurrences (spec/42_hash.md R174 to R176, R184, R185). -/

namespace Sys2Proof.Proofs

open Sys2Proof Sys2Proof.Machine Sys2Proof.Spec

/-- Settles O42: below 2^61 bytes the length in bits fits 64 bits, and its bytes are the fields of that word. -/
theorem paddingFillsWholeBlocks : Obligations.PaddingFillsWholeBlocks := by
  intro m hm
  obtain ⟨hwhole, hleast⟩ := padZeros_least m.length
  obtain ⟨e, he⟩ : ∃ e : BitVec 64, e.toNat = 8 * m.length := by
    refine ⟨BitVec.ofNat 64 (8 * m.length), ?_⟩
    rw [BitVec.toNat_ofNat]
    omega
  refine ⟨padZeros m.length, hwhole, hleast, e, he, ?_, ?_⟩
  · rw [pad256, ← he, beBytes_toNat, List.append_assoc m]
    rfl
  · rw [pad160, ← he, leBytes_toNat, List.append_assoc m]
    rfl

/-- Settles O43: the model's schedule is the recurrence's, and its rounds follow the working variables. -/
theorem sha256BlockFollowsTheRecurrences : Obligations.Sha256BlockFollowsTheRecurrences := by
  intro h b W V _ htrace
  rw [shaBlock, shaRounds_eq htrace]

/-- Settles O44: the fold over the blocks is the last chaining value, and each word is written in four bytes. -/
theorem sha256ChainsTheBlocks : Obligations.Sha256ChainsTheBlocks := by
  intro m H hinit hchain
  have hdigest : sha256Digest m = shaOutput (H ((pad256 m).length / 64)) := by
    rw [sha256Digest, ← hinit, foldl_blocks64_eq hchain]
  refine ⟨_, rfl, length_sha256Digest m, fun j hj => ?_⟩
  rw [hdigest]
  exact ⟨_, List.getElem?_eq_getElem hj, fun k hk => getElem?_shaOutput (List.getElem?_eq_getElem hj) hk⟩

/-- Settles O45: each line's fold follows its recurrence, on the block's words. -/
theorem ripemd160BlockFollowsTheRecurrences : Obligations.Ripemd160BlockFollowsTheRecurrences := by
  intro h b X L R _ hX hleft hright
  rw [rmdBlock, rmdBlockWords_eq hX, rmdLeft_eq hleft, rmdRight_eq hright]

/-- Settles O46: as for SHA-256, with five words and their bytes in the other order. -/
theorem ripemd160ChainsTheBlocks : Obligations.Ripemd160ChainsTheBlocks := by
  intro m H hinit hchain
  have hdigest : rmd160Digest m = rmdOutput (H ((pad160 m).length / 64)) := by
    rw [rmd160Digest, ← hinit, foldl_blocks64_eq hchain]
  refine ⟨_, rfl, length_rmd160Digest m, fun j hj => ?_⟩
  rw [hdigest]
  exact ⟨_, List.getElem?_eq_getElem hj, fun k hk => getElem?_rmdOutput (List.getElem?_eq_getElem hj) hk⟩

end Sys2Proof.Proofs
end
